-- ==== Sys2Proof/Word.lean ====
section
/-! DEFINITION. The numbers and words the manual gives its things: bytes, two-byte values, and the bounded
numbers of ports, stations, groups, uplinks and buckets ("Ports and ids" in 00_scope.md; R177 for byte order). -/

namespace Sys2Proof

/-- One byte of a notice, a record or an inspection frame. -/
abbrev Byte := BitVec 8

/-- A two-byte value: digest, seed, sequence counters of 16 bits (R177, R178, R179). -/
abbrev Half := BitVec 16

/-- A local port, 0..7. -/
abbrev PortNo := Fin 8

/-- A station of the chassis, 0..15. -/
abbrev StationNo := Fin 16

/-- A destination group, 0..3. -/
abbrev Group := Fin 4

/-- An uplink id, 0..127. -/
abbrev UplinkId := Fin 128

/-- A bucket of a map bank, 0..2047 (R132). -/
abbrev Bucket := Fin 2048

/-- A configured or effective weight, 0..15. -/
abbrev Weight := BitVec 4

/-- The tag of a lookup request, 0..63 (R150). -/
abbrev Tag := BitVec 6

/-- A stored word of map memory (R180). -/
abbrev MapWord := BitVec 17

/-- "An uplink id is 8 × station + port" (00_scope.md, Ports and ids). -/
def uplinkOf (station : StationNo) (port : PortNo) : UplinkId :=
  ⟨8 * station.val + port.val, by omega⟩

/-- The station whose port an uplink id names. -/
def stationOf (u : UplinkId) : StationNo := ⟨u.val / 8, by omega⟩

/-- The port that an uplink id names at its station. -/
def portOf (u : UplinkId) : PortNo := ⟨u.val % 8, by omega⟩

/-- The byte of a two-byte value that is sent and stored first (11_layouts_and_signals.md: "high byte first"). -/
def highByte (h : Half) : Byte := h.extractLsb' 8 8

/-- The byte of a two-byte value that is sent and stored second. -/
def lowByte (h : Half) : Byte := h.extractLsb' 0 8

/-- The two-byte value of a high and a low byte. -/
def ofBytes (high low : Byte) : Half := high ++ low

end Sys2Proof
end

