-- ==== Sys2Proof/Config.lean ====
section
/-! DEFINITION. What is fixed for every station: the time base, the waits of the failover bus, the limits the manual
names, and the two free values: the order in which raises of one event are taken, and when the cells of a completed
attempt were heard. -/

namespace Sys2Proof.Config

/-- A free value (R174: raises that fall together "are taken one after the other … Either may be
first"). It picks which of several new raises of one event is taken first; nothing constrains it. It is applied to the
plain counter `State.freeCount`. Log entry 9. -/
opaque raiseFirst : Nat → Nat

/-- A free value (R55, R67): the offset, in picoseconds, of the boundary transition of a cell of a completed attempt
from its expected moment, which no operand of ATTEMPT_COMPLETE tells. It is applied to `State.freeCount`, which moves
on with every cell. Log entry 19. -/
opaque echoOffset : Nat → Int

/-- Bit cells of 100 ns in a microsecond (R52); every timer of the model counts cells. -/
def cellsPerMicrosecond : Nat := 10

/-- Bit cells in a millisecond. -/
def cellsPerMillisecond : Nat := 10000

/-- Bit cells in 100 ms, the unit of restore wait and ramp interval (R6). -/
def cellsPer100Milliseconds : Nat := 1000000

/-- One bit cell in picoseconds, the unit of the clock recovery's cell timing (R52, R54). -/
def cellPicoseconds : Int := 100000

/-- A quarter of a cell, in picoseconds: the boundary part reaches so far to each side (R55). -/
def quarterCellPicoseconds : Int := 25000

/-- A sixteenth of a cell, 6.25 ns, in picoseconds: one correction of the cell timing (R55). -/
def correctionPicoseconds : Int := 6250

/-- The urgent access gap in cells (R62). -/
def urgentGap : Nat := 24

/-- The routine access gap in cells (R62). -/
def routineGap : Nat := 48

/-- Cells in a backoff slot (R62). -/
def backoffSlotCells : Nat := 8

/-- The idle count holds at this value (R61). -/
def idleCountLimit : Nat := 255

/-- Attempts given to one notice (R66). -/
def attemptLimit : Nat := 8

/-- Read attempts the loader makes (R3). -/
def readAttemptLimit : Nat := 4

/-- Wait between an unacknowledged first address and the next read attempt: 1 ms (R3). -/
def readRetryDelay : Nat := cellsPerMillisecond

/-- Bit cells of 100 ns in a quarter of an SCL period at 100 kHz: 2.5 µs (R3). -/
def cellsPerQuarterClock : Nat := 25

/-- Time from the first start condition in which the 28th byte must arrive: 20 ms (R3). -/
def loadingLimit : Nat := 20 * cellsPerMillisecond

/-- Requests the lookup FIFO holds (R150). -/
def fifoDepth : Nat := 8

/-- The modulus of the raw score, "the largest prime below 65,536" (R117). -/
def scoreModulus : Nat := 65521

/-- The divergence count at which VIEW DIVERGENCE is raised (R90). -/
def divergenceLimit : Nat := 3

end Sys2Proof.Config
end

