-- ==== Sys2Proof/Syntax.lean ====
section
/-! DEFINITION. The commands of the block: one constructor of `Instr` per row of spec/opcode_table.json, with the
operands the row's rule gives it. -/

namespace Sys2Proof

/-- The five notice kinds (05_notices.md). -/
inductive NoticeKind where
  | join | state | alert | solicit | leave
  deriving DecidableEq, Repr

/-- The three error lines of a port's PHY (R37). -/
inductive ErrorKind where
  | code | slip | frame
  deriving DecidableEq, Repr

/-- The byte of a read attempt that the EEPROM fails to acknowledge (R3). -/
inductive AddressStage where
  /-- Step 2 of a read attempt: the device address with the write direction. -/
  | firstAddress
  /-- Step 3: the word-address byte. -/
  | wordAddress
  /-- Step 5: the device address with the read direction. -/
  | readAddress
  deriving DecidableEq, Repr

/-- What the clock recovery sees of the line in one expected cell (R55): the offset, in picoseconds, of the transition
in the boundary part from the expected boundary (negative: it came before), or none; and whether a transition fell in
the middle part. R55 does not say which of several transitions in one boundary part is the observed one, which the
correction follows: the operand holds one, and which it is is left to the sender (DESIGN CHOICE, log entry 36). -/
structure LineCell where
  boundary : Option Int
  middle : Bool
  deriving DecidableEq, Repr

/-- A frame handed on that the notice unit counts and discards (R78). -/
inductive BadFrame where
  /-- Handed on with the outcome CODE VIOLATION (R59). -/
  | codeViolation
  /-- Handed on with the outcome TRUNCATED (R59). -/
  | truncated
  /-- Handed on COMPLETE: the bytes its CRC covers, and the CRC it carries (R79). -/
  | complete (covered : List Byte) (crc : Half)
  deriving DecidableEq, Repr

/-- What ends a frame at its handing-on, the CRC or how it is bad, and `times`: for each cell heard up to then that no
other command has told, the offset of its boundary transition, or none for a missed cell (R55, R56; log entry 5). -/
structure Heard (α : Type) where
  value : α
  times : List (Option Int)
  deriving DecidableEq, Repr

/-- The commands of the block, in the order of spec/opcode_table.json. -/
inductive Instr where
  /-- POWER_ON (R2): the levels of SN3..SN0 at the strap sample. -/
  | powerOn (straps : BitVec 4)
  /-- ADDRESS_NOT_ACKNOWLEDGED (R3): which byte was not acknowledged. -/
  | addressNotAcknowledged (stage : AddressStage)
  /-- READ_RETRY_DELAY_EXPIRY (R3). -/
  | readRetryDelayExpiry
  /-- LOADING_TIMEOUT (R3). -/
  | loadingTimeout
  /-- RECORD_RECEIVED (R4): the 28 bytes of the record. -/
  | recordReceived (record : Vector Byte 28)
  /-- JOIN_SETTLE_TIMER_EXPIRY (R10). -/
  | joinSettleTimerExpiry
  /-- ATTENTION_ASSERTION (R11, R182): ATTN changes from low to high. -/
  | attentionAssertion
  /-- SPI_TRANSACTION_OPEN (R164): CS_N falls. -/
  | spiTransactionOpen
  /-- SPI_TRANSACTION_END (R164): CS_N rises. -/
  | spiTransactionEnd
  /-- UNKNOWN_COMMAND (R164, R165): a command byte that names no command. -/
  | unknownCommand (byte : Byte)
  /-- STATUS (R167). -/
  | status
  /-- READ_UPLINK (R34, R50): the port byte. -/
  | readUplink (port : Byte)
  /-- READ_PEER (R111): the station byte. -/
  | readPeer (station : Byte)
  /-- READ_CANDIDATE (R112): the uplink byte. -/
  | readCandidate (uplink : Byte)
  /-- READ_ENTRY (R148): the group byte, the bucket pair and the bank byte. -/
  | readEntry (group : Byte) (bucket : Half) (bank : Byte)
  /-- READ_COUNTERS (R168). -/
  | readCounters
  /-- READ_EVENTS (R169). -/
  | readEvents
  /-- CLEAR_EVENTS (R170): the mask pair that names the kinds. -/
  | clearEvents (mask : Half)
  /-- SET_MASK (R171): the mask pair. -/
  | setMask (mask : Half)
  /-- DRAIN (R28): the port byte. -/
  | drain (port : Byte)
  /-- UNDRAIN (R29): the port byte. -/
  | undrain (port : Byte)
  /-- QUIET (R11). -/
  | quiet
  /-- WAKE (R12). -/
  | wake
  /-- RESTART (R14). -/
  | restart
  /-- CADENCE_TRANSITION (R17): CADn of the port changes its level. -/
  | cadenceTransition (port : PortNo)
  /-- CADENCE_WINDOW_EXPIRY (R17). -/
  | cadenceWindowExpiry
  /-- LOS_ASSERTION (R19): LOSn of the port changes from low to high. -/
  | losAssertion (port : PortNo)
  /-- LOS_RELEASE (R19): LOSn of the port changes from high to low. -/
  | losRelease (port : PortNo)
  /-- RESTORE_TIMER_EXPIRY (R23). -/
  | restoreTimerExpiry (port : PortNo)
  /-- RAMP_TIMER_EXPIRY (R24). -/
  | rampTimerExpiry (port : PortNo)
  /-- ERROR_PULSE (R37): a pulse on one error line of a port. -/
  | errorPulse (port : PortNo) (kind : ErrorKind)
  /-- ERROR_WINDOW_EXPIRY (R39). -/
  | errorWindowExpiry
  /-- LINE_BUSY (R54): the first line transition in SEEK. -/
  | lineBusy
  /-- LINE_IDLE (R56): the second missed cell in a row, and before it the cells of this busy time that no other
  command has told (log entry 4). -/
  | lineIdle (cells : List LineCell)
  /-- ATTEMPT_START (R62, R63): the idle cells that have passed and that no step has counted yet (log entry 3). -/
  | attemptStart (idleCells : Nat)
  /-- COLLISION (R64, R65): the offsets of the boundary transitions (R55) of the cells of the attempt that agreed, whose
  number is the place of the collided cell, and what was heard in that cell. -/
  | collision (agreed : List Int) (heard : LineCell)
  /-- ATTEMPT_COMPLETE (R67). -/
  | attemptComplete
  /-- BAD_FRAME_RECEIVED (R78): the frame, and the cells heard up to its handing-on. -/
  | badFrameReceived (frame : Heard BadFrame)
  /-- JOIN_RECEIVED (R84, R94): a COMPLETE frame of kind JOIN: sender, sequence, the 17 body bytes, and the CRC with
  the cells heard up to it. -/
  | joinReceived (sender : StationNo) (sequence : Byte) (body : Vector Byte 17) (crc : Heard Half)
  /-- STATE_RECEIVED (R85, R95): a COMPLETE frame of kind STATE, with its 13 body bytes. -/
  | stateReceived (sender : StationNo) (sequence : Byte) (body : Vector Byte 13) (crc : Heard Half)
  /-- ALERT_RECEIVED (R86): a COMPLETE frame of kind ALERT, with its 13 body bytes. -/
  | alertReceived (sender : StationNo) (sequence : Byte) (body : Vector Byte 13) (crc : Heard Half)
  /-- SOLICIT_RECEIVED (R87, R96): a COMPLETE frame of kind SOLICIT, with its digest. -/
  | solicitReceived (sender : StationNo) (sequence : Byte) (body : Vector Byte 2) (crc : Heard Half)
  /-- LEAVE_RECEIVED (R88, R97): a COMPLETE frame of kind LEAVE, which has no body. -/
  | leaveReceived (sender : StationNo) (sequence : Byte) (crc : Heard Half)
  /-- ANNOUNCE_TIMER_EXPIRY (R76). -/
  | announceTimerExpiry
  /-- SOLICIT_HOLDOFF_EXPIRY (R77). -/
  | solicitHoldoffExpiry
  /-- SILENCE_TIMER_EXPIRY (R98): the silence timer of one peer entry. -/
  | silenceTimerExpiry (station : StationNo)
  /-- PRESENCE_LINE_FALL (R99, R182): PRESn changes from high to low. -/
  | presenceLineFall (station : StationNo)
  /-- PRESENCE_LINE_RISE (R99): PRESn changes from low to high. -/
  | presenceLineRise (station : StationNo)
  /-- BUCKET_DONE (R140): the bits of the shadow cell that do not hold what is written into them (log entry 6). -/
  | bucketDone (stuck : MapWord)
  /-- LOOKUP_REQUEST (R151): the request, and the bits of the word its entry read finds changed since that word was
  written (R133; log entry 6). -/
  | lookupRequest (group : Group) (bucket : Bucket) (tag : Tag) (upset : MapWord)
  /-- REPLY_FORMATION (R156): the bits of the word that the next head's entry read finds changed since that word was
  written (R133; log entry 6). -/
  | replyFormation (upset : MapWord)
  /-- ATTENTION_RELEASE (R11, R182): ATTN changes from high to low. -/
  | attentionRelease
  deriving DecidableEq, Repr

end Sys2Proof
end

