-- ==== Sys2Proof/Machine/State.lean ====
section
/-! DEFINITION. The state of one station, as plain data, block by block, and its value right after power-on. -/

namespace Sys2Proof.Machine

/-- Why a command stops the block. No rule of the spec stops it: every command answers a next state, so there is no
reason to name (log entry 17). -/
inductive Fault where
  deriving DecidableEq, Repr

/-- Why a command is turned away. -/
inductive Refusal where
  /-- Raised by `exec` alone, for a row of the table that has no meaning yet; safe. No row is left so. -/
  | notModelled (mnemonic : String)
  deriving DecidableEq, Repr

/-- A timer ("Time" in 00_scope.md): stopped, or running with the bit cells of 100 ns that it still runs. -/
inductive Timer where
  | stopped
  | running (left : Nat)
  deriving DecidableEq, Repr

/-! ### Pins -/

/-- The levels of the input pins that the block reads (R182); `true` is high. `sclHeld` says that the EEPROM holds SCL
low (R3). -/
structure Pins where
  straps : BitVec 4
  sclHeld : Bool
  attn : Bool
  los : Vector Bool 8
  cadence : Vector Bool 8
  presence : Vector Bool 16
  deriving DecidableEq, Repr

/-! ### Station control (chapter 1) -/

/-- The six station states (R1). -/
inductive StationState where
  | loading | configFault | joining | operating | quiet | muted
  deriving DecidableEq, Repr

/-- The configuration fault causes (R3, R4). -/
inductive FaultCause where
  | noAcknowledge | badChecksum | badMagic | badVersion | badAction
  deriving DecidableEq, Repr

/-- What station control holds (R1, R2). -/
structure Control where
  station : StationState
  number : StationNo
  settle : Timer
  restartPending : Bool
  cause : Option FaultCause
  clamp : Bool
  deriving DecidableEq, Repr

/-! ### Configuration loader (chapter 1) -/

/-- One element of a read attempt on the I2C bus (R3). -/
inductive I2cElement where
  | start
  | repeatedStart
  | stop
  /-- The eight clocks of a byte that the loader sends. -/
  | send (byte : Byte)
  /-- The ninth clock of such a byte, in which the EEPROM acknowledges it. -/
  | listen
  /-- The eight clocks of a byte that the EEPROM sends. -/
  | receive
  /-- The ninth clock of such a byte, in which the loader acknowledges it, or does not. -/
  | acknowledge (given : Bool)
  deriving DecidableEq, Repr

/-- Step 6 of a read attempt (R3): 28 data bytes, of which the loader acknowledges the first 27. -/
def dataBytes : List I2cElement :=
  (List.replicate 27 [I2cElement.receive, .acknowledge true]).flatten ++ [.receive, .acknowledge false]

/-- "One read attempt is this sequence" (R3): device address 0x50 in the upper seven bits, write then read. -/
def readAttempt : List I2cElement :=
  [.start, .send 0xA0, .listen, .send 0x00, .listen, .repeatedStart, .send 0xA1, .listen] ++ dataBytes ++ [.stop]

/-- What the configuration loader holds while it reads (R3): the attempts begun, what it has still to carry out on SCL
and SDA (`bus`; empty, both are released), the quarter of a clock that it drives of the first element, the cells of
100 ns since that quarter began, the wait before the next attempt, and the limit of 20 ms. -/
structure Loader where
  attempts : Nat
  bus : List I2cElement
  quarter : Nat
  cells : Nat
  retry : Timer
  deadline : Timer
  deriving DecidableEq, Repr

/-- The three actions of an error kind (R4, R41). -/
inductive Action where
  | report | degrade | dark
  deriving DecidableEq, Repr

/-- The loaded parameters, after clamping (R6, R7), without the per-port ones (`Port`) and the event mask
(`EventUnit`). -/
structure Params where
  bucketCode : BitVec 2
  seed : Half
  announce : Byte
  silenceLimit : Byte
  cadenceWindow : Byte
  errorWindow : Byte
  threshold : Byte
  codeAction : Action
  slipAction : Action
  frameAction : Action
  cleanWindows : Byte
  restoreWait : Byte
  rampSteps : Byte
  rampInterval : Byte
  presenceInUse : Bool
  checksum : Byte
  deriving DecidableEq, Repr

/-! ### Light monitor and error grader (chapters 2 and 3) -/

/-- The light states (R15). -/
inductive LightState where
  | noLight | light | flicker
  deriving DecidableEq, Repr

/-- The port conditions (R15). -/
inductive Condition where
  | off | dark | holding | ramping | lit | degraded | drained
  deriving DecidableEq, Repr

/-- One port monitor (R15); `losSeen` and `transitionSeen` are what R17 judges the current cadence window by. -/
structure Port where
  enabled : Bool
  group : Group
  weight : Weight
  light : LightState
  condition : Condition
  restore : Timer
  step : Nat
  ramp : Timer
  flickers : Half
  losSeen : Bool
  transitionSeen : Bool
  deriving DecidableEq, Repr

/-- The error grader's part of one port (R35). -/
structure Grader where
  code : Byte
  slip : Byte
  frame : Byte
  codeMark : Bool
  slipMark : Bool
  frameMark : Bool
  clean : Nat
  deriving DecidableEq, Repr

/-! ### Bus transceiver (chapter 4) -/

/-- The line driver (R51): released, or driven by the line coder during an attempt, with the level it gives the line in
the first and the second half of each cell (R52); `false` is driven low, `true` is released to the high bias. -/
inductive Driver where
  | released
  | driven (levels : List (Bool × Bool))
  deriving DecidableEq, Repr

/-- The state of clock recovery (R53). -/
inductive Recovery where
  | seek | track
  deriving DecidableEq, Repr

/-- The line state of access control (R61). -/
inductive LineState where
  | busy | idle
  deriving DecidableEq, Repr

/-- The phases of the frame receiver (R57). -/
inductive Phase where
  | hunt | frame | spent
  deriving DecidableEq, Repr

/-- The frame receiver (R57 to R59): its phase; in HUNT the run count and the cells of the delimiter already matched
behind ten ones; in FRAME the bytes gathered, the bits of the byte being gathered, and the code-violation mark. -/
structure Receiver where
  phase : Phase
  run : Nat
  matched : Nat
  bytes : List Byte
  bits : List Bool
  violated : Bool
  deriving DecidableEq, Repr

/-- The kinds of transmit queue entries (R68). -/
inductive EntryKind where
  | join | report | solicit | leave
  deriving DecidableEq, Repr

/-- An entry of the transmit queue (R68). -/
structure QueueEntry where
  kind : EntryKind
  urgent : Bool
  attempts : Nat
  deriving DecidableEq, Repr

/-- The in-flight notice (R63, R68, R71): its entry, how many queued entries are older than it (its age among them,
R72), its final mark, and the notice bytes that were filled. -/
structure InFlight where
  entry : QueueEntry
  older : Nat
  final : Bool
  frame : List Byte
  deriving DecidableEq, Repr

/-- A backoff owed (R62, R65): its slots, and whether the wait that ends it has begun. -/
structure Backoff where
  slots : Nat
  waiting : Bool
  deriving DecidableEq, Repr

/-- The bus transceiver. -/
structure Bus where
  driver : Driver
  recovery : Recovery
  boundary : Int
  missed : Nat
  receiver : Receiver
  line : LineState
  idleCount : Nat
  backoff : Option Backoff
  queue : List QueueEntry
  inFlight : Option InFlight
  deriving DecidableEq, Repr

/-! ### Notice unit (chapter 5) and station counters (R168) -/

/-- The notice unit's sequence counter and timers (R73). -/
structure Notices where
  sequence : Byte
  announce : Timer
  holdoff : Timer
  deriving DecidableEq, Repr

/-- The twenty-one station counters, in the order of the table of R168. -/
inductive Counter where
  | sentJoin | sentState | sentAlert | sentSolicit | sentLeave
  | collisionAborts | giveUps
  | receivedJoin | receivedState | receivedAlert | receivedSolicit | receivedLeave
  | crcFailures | codeViolations | truncations | staleNotices | unseatedNotices
  | recomputes | flips | parityFailures | flickers
  deriving DecidableEq, Repr

/-! ### Peer table and candidate table (chapter 6) -/

/-- The states of a peer entry (R91). -/
inductive PeerState where
  | absent | present | silent | mismatch | localEntry
  deriving DecidableEq, Repr

/-- The mismatch sources (R91). -/
inductive MismatchSource where
  | byJoin | byChecksum
  deriving DecidableEq, Repr

/-- One port fact of a report (R83, R91). -/
structure Fact where
  condition : Condition
  weight : Weight
  group : Group
  deriving DecidableEq, Repr

/-- One peer entry (R91). -/
structure Peer where
  state : PeerState
  lastSequence : Byte
  silence : Timer
  lastChecksum : Option Byte
  source : Option MismatchSource
  report : Option (Vector Fact 8)
  lastDigest : Option Half
  divergence : Nat
  accepted : Half
  stale : Half
  deriving DecidableEq, Repr

/-- The sources of a candidate entry (R102). -/
inductive Source where
  | ownPort | peerReport
  deriving DecidableEq, Repr

/-- One candidate entry (R102); a `condition` of `none` is NOT HEARD. -/
structure Candidate where
  source : Source
  condition : Option Condition
  group : Group
  weight : Weight
  deriving DecidableEq, Repr

/-- The candidate table: the 128 entries as sixteen rows of eight, one row a station (an uplink id is 8 × station +
port), the view digest and the four dirty flags (R102, R107, R109). -/
structure CandidateTable where
  rows : Vector (Vector Candidate 8) 16
  digest : Half
  dirty : Vector Bool 4
  deriving DecidableEq, Repr

/-! ### Recompute engine and map memory (chapters 7 and 8) -/

/-- A pair of the candidate snapshot (R114). -/
structure SnapshotPair where
  uplink : UplinkId
  weight : Weight
  deriving DecidableEq, Repr

/-- A place in the score unit (R115): an uplink id and its weighted score. -/
structure Scored where
  uplink : UplinkId
  score : Nat
  deriving DecidableEq, Repr

/-- The score unit (R115): leader, runner-up, and its place in the snapshot. -/
structure ScoreUnit where
  leader : Option Scored
  runnerUp : Option Scored
  place : Nat
  deriving DecidableEq, Repr

/-- The engine state (R136). -/
inductive EngineRun where
  | idle
  | running (group : Group) (bucket : Bucket)
  deriving DecidableEq, Repr

/-- The recompute engine (R136); `retried` is the retry count of a group, 0 or 1. -/
structure Engine where
  run : EngineRun
  snapshot : List SnapshotPair
  score : ScoreUnit
  pointer : Group
  retried : Vector Bool 4
  fault : Vector Bool 4
  deriving DecidableEq, Repr

/-- A listed word of map memory: its address and the word. -/
abbrev MapCell := Nat × MapWord

/-- The words of map memory, in the canonical form of `Memory.wf`. -/
abbrev Memory := List MapCell

/-- An EMPTY entry as it is stored, 0x00001 (R180): what an unlisted address reads as, and what every word holds after
power-on and after every reset (R132). -/
def emptyWord : MapWord := 0x00001

/-- Map memory (R132); a `false` selector names bank 0. -/
structure MapMemory where
  words : Memory
  active : Vector Bool 4
  generation : Vector Half 4
  deriving DecidableEq, Repr

/-! ### Lookup port (chapter 9) -/

/-- A request in the FIFO (R150). -/
structure Request where
  group : Group
  bucket : Bucket
  tag : Tag
  deriving DecidableEq, Repr

/-- The result of the head's entry read (R153). -/
inductive Service where
  | notReady
  | entry (primary backup : Option UplinkId)
  | parityFailure
  deriving DecidableEq, Repr

/-- The via codes of a reply (R157). -/
inductive Via where
  | notReady | primary | backup | lastResort | none
  deriving DecidableEq, Repr

/-- The reply outputs (R181). LR_STB is low but for the one-cycle pulse that marks each delivery, so what is held of
it is `strobes`, the number of its pulses since power-on (log entry 15). -/
structure ReplyPins where
  tag : Tag
  via : Via
  uplink : BitVec 7
  named : Bool
  strobes : Nat
  deriving DecidableEq, Repr

/-- The lookup port (R150). -/
structure LookupPort where
  fifo : List Request
  service : Option Service
  ready : Bool
  reply : ReplyPins
  deriving DecidableEq, Repr

/-! ### Inspection port and event unit (chapter 10) -/

/-- The inspection port (R164): waiting for chip select to fall; a transaction whose command is not yet taken; or one
whose command was taken, with the status byte and the reply data captured then. -/
inductive Transaction where
  | waiting
  | opened
  | taken (status : Byte) (data : List Byte)
  deriving DecidableEq, Repr

/-- The twelve event kinds, by number (10_inspection_port_and_events.md, section 10.4). -/
inductive EventKind where
  | uplinkDark | uplinkDegraded | uplinkRestored | errorReport | peerLost | peerMismatch
  | viewDivergence | busGiveUp | mapParity | mapFault | stationClash | configFault
  deriving DecidableEq, Repr

/-- The severities, with NONE (R173). -/
inductive Severity where
  | none | advisory | action | fatal
  deriving DecidableEq, Repr

/-- A raise: a kind and its subject, if it has one. -/
structure Raise where
  kind : EventKind
  subject : Option Byte
  deriving DecidableEq, Repr

/-- The event unit (R173); bit n of `pending` and of `mask` is kind number n, a set mask bit is masked. The pin INT_N
follows `interrupt` (`interruptPin`, R182). -/
structure EventUnit where
  pending : BitVec 12
  mask : BitVec 12
  record : Option Raise
  severity : Severity
  interrupt : Bool
  deriving DecidableEq, Repr

/-! ### The station -/

/-- The whole station, and the commands that wait, first in, first out. `freeCount` is the model's own: the counter
to which the free values are applied. -/
structure State where
  pending : List Instr
  freeCount : Nat
  pins : Pins
  control : Control
  loader : Loader
  params : Params
  ports : Vector Port 8
  cadenceTimer : Timer
  graders : Vector Grader 8
  errorTimer : Timer
  bus : Bus
  notices : Notices
  counters : Vector Half 21
  peers : Vector Peer 16
  table : CandidateTable
  engine : Engine
  map : MapMemory
  lookup : LookupPort
  spi : Transaction
  events : EventUnit
  deriving DecidableEq, Repr

/-! ### The reset values, block by block -/

/-- The parameters before any record has been accepted: R35 gives the threshold, the actions and Nc; the spec gives the
others no value (DESIGN CHOICE: 0, log entry 8). -/
def Params.reset : Params :=
  { bucketCode := 0, seed := 0, announce := 0, silenceLimit := 0, cadenceWindow := 0, errorWindow := 0,
    threshold := 16, codeAction := .dark, slipAction := .degrade, frameAction := .degrade, cleanWindows := 4,
    restoreWait := 0, rampSteps := 0, rampInterval := 0, presenceInUse := false, checksum := 0 }

/-- Station control in LOADING, once the straps have given the number (R1, R2). -/
def Control.reset (number : StationNo) : Control :=
  { station := .loading, number := number, settle := .stopped, restartPending := false, cause := none, clamp := false }

/-- The loader when it has begun its first read attempt (R2, R3). R3 counts the 20 ms from the first start condition,
which is the fall of SDA; the model's limit counts from the moment the loader takes up the start condition, a quarter of
a clock before that fall (DESIGN CHOICE, log entry 32). -/
def Loader.reset : Loader :=
  { attempts := 1, bus := readAttempt, quarter := 0, cells := 0, retry := .stopped
    deadline := .running Config.loadingLimit }

/-- A port monitor after reset (R15). The table of R15 has no line for what a cadence window has seen, by which R17
judges it: the model has nothing seen (DESIGN CHOICE, log entry 35). -/
def Port.reset : Port :=
  { enabled := false, group := 0, weight := 0, light := .noLight, condition := .off, restore := .stopped, step := 0,
    ramp := .stopped, flickers := 0, losSeen := false, transitionSeen := false }

/-- A port's error grader after reset (R35). -/
def Grader.reset : Grader :=
  { code := 0, slip := 0, frame := 0, codeMark := false, slipMark := false, frameMark := false, clean := 0 }

/-- The frame receiver as it enters HUNT (R57). -/
def Receiver.reset : Receiver :=
  { phase := .hunt, run := 0, matched := 0, bytes := [], bits := [], violated := false }

/-- The bus transceiver after reset (R51, R53, R61, R68). The spec gives the frame receiver no phase before the first
entry to TRACK; the model has it in HUNT, with nothing gathered (DESIGN CHOICE, log entry 27). -/
def Bus.reset : Bus :=
  { driver := .released, recovery := .seek, boundary := 0, missed := 0, receiver := Receiver.reset, line := .idle,
    idleCount := 0, backoff := none, queue := [], inFlight := none }

/-- The notice unit after reset (R73). -/
def Notices.reset : Notices :=
  { sequence := 0, announce := .stopped, holdoff := .stopped }

/-- A peer entry after reset, in the given state: LOCAL for the own number, else ABSENT (R91, R92). -/
def Peer.reset (state : PeerState) : Peer :=
  { state := state, lastSequence := 0, silence := .stopped, lastChecksum := none, source := none, report := none,
    lastDigest := none, divergence := 0, accepted := 0, stale := 0 }

/-- The peer table at the strap sample (R92). -/
def peersReset (number : StationNo) : Vector Peer 16 :=
  Vector.ofFn fun i => Peer.reset (if i = number then .localEntry else .absent)

/-- A candidate entry that no source has filled: PEER, NOT HEARD, group 0, weight 0 (R102). -/
def Candidate.unheard : Candidate :=
  { source := .peerReport, condition := none, group := 0, weight := 0 }

/-- An own entry at the strap sample: LOCAL, OFF, group 0, weight 0 (R102). -/
def Candidate.ownReset : Candidate :=
  { source := .ownPort, condition := some .off, group := 0, weight := 0 }

/-- The candidate table at the strap sample (R102, R108, R109): the digest is the CRC-16 of 128 bytes of 0. -/
def CandidateTable.reset (number : StationNo) : CandidateTable :=
  { rows := Vector.ofFn fun i => Vector.replicate 8 (if i = number then Candidate.ownReset else Candidate.unheard),
    digest := 0xF00A, dirty := Vector.replicate 4 false }

/-- The score unit at the start of a bucket (R115), and between commands (DESIGN CHOICE, log entry 24). -/
def ScoreUnit.reset : ScoreUnit :=
  { leader := none, runnerUp := none, place := 0 }

/-- The recompute engine after reset (R136). -/
def Engine.reset : Engine :=
  { run := .idle, snapshot := [], score := ScoreUnit.reset, pointer := 3, retried := Vector.replicate 4 false,
    fault := Vector.replicate 4 false }

/-- Map memory after reset: every word EMPTY, bank 0 active, generation 0 (R132). -/
def MapMemory.reset : MapMemory :=
  { words := [], active := Vector.replicate 4 false, generation := Vector.replicate 4 0 }

/-- The reply outputs after power-on (R181). -/
def ReplyPins.reset : ReplyPins :=
  { tag := 0, via := .notReady, uplink := 0, named := false, strobes := 0 }

/-- The lookup port after power-on (R150). -/
def LookupPort.reset : LookupPort :=
  { fifo := [], service := none, ready := true, reply := ReplyPins.reset }

/-- The event unit after reset (R173). -/
def EventUnit.reset : EventUnit :=
  { pending := 0, mask := 0, record := none, severity := .none, interrupt := false }

/-- The levels of the input pins in `State.reset`: all low, SCL not held, and every slot seated (DESIGN CHOICE, log
entry 13: the board sets them, the spec gives no level). -/
def Pins.reset : Pins :=
  { straps := 0, sclHeld := false, attn := false, los := Vector.replicate 8 false, cadence := Vector.replicate 8 false,
    presence := Vector.replicate 16 true }

/-- The station right after power-on (R2): LOADING, every block at its reset values, the straps sampled and the
loader's first read attempt begun. -/
def State.reset : State :=
  { pending := [], freeCount := 0, pins := Pins.reset, control := Control.reset 0, loader := Loader.reset,
    params := Params.reset, ports := Vector.replicate 8 Port.reset, cadenceTimer := .stopped,
    graders := Vector.replicate 8 Grader.reset, errorTimer := .stopped, bus := Bus.reset, notices := Notices.reset,
    counters := Vector.replicate 21 0, peers := peersReset 0, table := CandidateTable.reset 0, engine := Engine.reset,
    map := MapMemory.reset, lookup := LookupPort.reset, spi := .waiting, events := EventUnit.reset }

end Sys2Proof.Machine
end

