-- ==== Sys2Proof/Machine/Operands.lean ====
section
/-! DEFINITION. The layouts of chapter 11: the CRC, the notices and their fields, the configuration record, the codes
of the inspection port and the words of map memory. Each reads or builds the operands that commands carry. -/

namespace Sys2Proof.Machine

/-! ### CRC-16 (R75, R177) -/

/-- One bit of the CRC: polynomial x^16 + x^12 + x^5 + 1, most significant bit first (R177). -/
def crcBit (c : Half) : Half := if c.msb then (c <<< 1) ^^^ 0x1021 else c <<< 1

/-- One byte of the CRC, most significant bit first. -/
def crcByte (c : Half) (b : Byte) : Half := Nat.repeat crcBit 8 (c ^^^ (b ++ 0#8))

/-- The CRC-16 over bytes in order, from the initial value 0xFFFF, with no inversion at the end (R177). -/
def crc16 (bytes : List Byte) : Half := bytes.foldl crcByte 0xFFFF

/-! ### Notices (R52, R177) -/

/-- The kind nibble (R177). -/
def kindCode : NoticeKind → BitVec 4
  | .join => 1
  | .state => 2
  | .alert => 3
  | .solicit => 4
  | .leave => 5

/-- The kind that a nibble names; 0 and 6..15 name none (R177). -/
def kindOfCode (nibble : BitVec 4) : Option NoticeKind :=
  if nibble = 1 then some .join else if nibble = 2 then some .state else if nibble = 3 then some .alert
  else if nibble = 4 then some .solicit else if nibble = 5 then some .leave else none

/-- Notice bytes of a kind: header, body and CRC (R52). -/
def noticeLength : NoticeKind → Nat
  | .join => 21
  | .state => 17
  | .alert => 17
  | .solicit => 6
  | .leave => 4

/-- The length that the first header byte declares, or none when its high nibble names no kind (R58). -/
def declaredLength (header : Byte) : Option Nat := (kindOfCode (header.extractLsb' 4 4)).map noticeLength

/-- Cells of a frame: 16 of preamble, 8 of delimiter and 8 a notice byte (R52). -/
def frameCellCount (kind : NoticeKind) : Nat := 16 + 8 + 8 * noticeLength kind

/-- The first header byte: the kind in the high nibble, the sender in the low one (R52, R177). -/
def headerByte (kind : NoticeKind) (sender : StationNo) : Byte := kindCode kind ++ BitVec.ofNat 4 sender.val

/-- The bytes that the CRC of a notice covers: the two header bytes and the body (R75, R177). -/
def coveredBytes (kind : NoticeKind) (sender : StationNo) (sequence : Byte) (body : List Byte) : List Byte :=
  headerByte kind sender :: sequence :: body

/-- The CRC of a notice over the bytes it covers (R75). -/
def noticeCrc (covered : List Byte) : Half := crc16 covered

/-- The notice bytes as they are sent: the covered bytes, then the CRC high byte first (R75, R177). -/
def noticeBytes (covered : List Byte) : List Byte :=
  covered ++ [highByte (noticeCrc covered), lowByte (noticeCrc covered)]

/-- A COMPLETE frame as the notice unit takes it (R79). -/
structure Notice where
  kind : NoticeKind
  sender : StationNo
  sequence : Byte
  body : List Byte
  crc : Half
  deriving DecidableEq, Repr

/-- Whether the CRC of a notice agrees (R79). -/
def crcAgrees (n : Notice) : Bool := noticeCrc (coveredBytes n.kind n.sender n.sequence n.body) == n.crc

/-- The notice in the bytes of a COMPLETE frame, where their first byte names a kind (R58, R177). -/
def noticeOfBytes (bytes : List Byte) : Option Notice :=
  (kindOfCode ((bytes.getD 0 0).extractLsb' 4 4)).map fun kind =>
    { kind := kind
      sender := ⟨(bytes.getD 0 0).toNat % 16, Nat.mod_lt _ (by decide)⟩
      sequence := bytes.getD 1 0
      body := (bytes.drop 2).take (noticeLength kind - 4)
      crc := ofBytes (bytes.getD (noticeLength kind - 2) 0) (bytes.getD (noticeLength kind - 1) 0) }

/-- The condition code of a report byte and of the replies (R33, R177). -/
def conditionCode : Condition → BitVec 4
  | .off => 0
  | .dark => 1
  | .holding => 2
  | .ramping => 3
  | .lit => 4
  | .degraded => 5
  | .drained => 6

/-- The condition that a code names; 7..15 name none in a report (R83). -/
def conditionOfCode (code : BitVec 4) : Option Condition :=
  if code = 0 then some .off else if code = 1 then some .dark else if code = 2 then some .holding
  else if code = 3 then some .ramping else if code = 4 then some .lit else if code = 5 then some .degraded
  else if code = 6 then some .drained else none

/-- RAMPING, LIT and DEGRADED: the conditions of a candidate (R20, R103). -/
def carriesTraffic : Condition → Bool
  | .ramping => true
  | .lit => true
  | .degraded => true
  | .off => false
  | .dark => false
  | .holding => false
  | .drained => false

/-- A report byte: condition code in bits 7..4, effective weight in bits 3..0 (R177). -/
def reportByte (condition : Condition) (weight : Weight) : Byte := conditionCode condition ++ weight

/-- The group of a port in the groups field: two bits a port, the lower-numbered port in the higher bits (R177). -/
def groupInField (field : Half) (p : PortNo) : Group :=
  ⟨(field.toNat >>> (14 - 2 * p.val)) % 4, Nat.mod_lt _ (by decide)⟩

/-- The groups field of eight groups, ports 0..7 from the highest bits down (R177). -/
def groupsField (groups : Vector Group 8) : Half :=
  (List.finRange 8).foldl (fun field p => (field <<< 2) ||| BitVec.ofNat 16 (groups[p]).val) 0

/-- A port fact in the form that the candidate table can hold (R83). -/
def readFact (byte : Byte) (group : Group) : Fact :=
  match conditionOfCode (byte.extractLsb' 4 4) with
  | none => { condition := .dark, weight := 0, group := group }
  | some condition =>
    if carriesTraffic condition then
      if byte.extractLsb' 0 4 = 0#4 then { condition := .dark, weight := 0, group := group }
      else { condition := condition, weight := byte.extractLsb' 0 4, group := group }
    else { condition := condition, weight := 0, group := group }

/-- The eight facts of a body whose report begins at `reportAt` and whose groups field begins at `groupsAt` (R83). -/
def readFacts (body : List Byte) (reportAt groupsAt : Nat) : Vector Fact 8 :=
  Vector.ofFn fun p =>
    readFact (body.getD (reportAt + p.val) 0)
      (groupInField (ofBytes (body.getD groupsAt 0) (body.getD (groupsAt + 1) 0)) p)

/-- The two-byte field that begins at an offset of a body. -/
def bodyHalf (body : List Byte) (at_ : Nat) : Half := ofBytes (body.getD at_ 0) (body.getD (at_ + 1) 0)

/-- The chassis parameters a JOIN carries: bucket code from bits 1..0 of its byte, seed, announce interval (R177). -/
def joinBucketCode (body : List Byte) : BitVec 2 := (body.getD 0 0).extractLsb' 0 2

/-- The seed a JOIN carries (R177). -/
def joinSeed (body : List Byte) : Half := bodyHalf body 1

/-- The announce interval a JOIN carries, as it stands (R177). -/
def joinAnnounce (body : List Byte) : Byte := body.getD 3 0

/-- The parameter checksum in the body of a JOIN, STATE or ALERT (R177). -/
def bodyChecksum (kind : NoticeKind) (body : List Byte) : Byte :=
  match kind with
  | .join => body.getD 4 0
  | .state => body.getD 0 0
  | .alert => body.getD 0 0
  | .solicit => 0
  | .leave => 0

/-- The eight facts in the body of a JOIN, STATE or ALERT (R177); a SOLICIT and a LEAVE carry none. -/
def bodyFacts (kind : NoticeKind) (body : List Byte) : Vector Fact 8 :=
  match kind with
  | .join => readFacts body 5 13
  | .state => readFacts body 1 9
  | .alert => readFacts body 1 9
  | .solicit => readFacts [] 0 0
  | .leave => readFacts [] 0 0

/-- The view digest in the body of a notice (R177). -/
def bodyDigest (kind : NoticeKind) (body : List Byte) : Half :=
  match kind with
  | .join => bodyHalf body 15
  | .state => bodyHalf body 11
  | .alert => bodyHalf body 11
  | .solicit => bodyHalf body 0
  | .leave => 0

/-! ### The configuration record (R4, R6, R8, R178) -/

/-- The action that a two-bit field names; the fourth code names none (R4, R178). -/
def actionOfCode (code : BitVec 2) : Option Action :=
  if code = 0 then some .report else if code = 1 then some .degrade else if code = 2 then some .dark else none

/-- The code of an action (R178). -/
def actionCode : Action → BitVec 2
  | .report => 0
  | .degrade => 1
  | .dark => 2

/-- "A value below the range becomes the range's minimum. A value above the range becomes its maximum." (R6) -/
def clampByte (low high value : Byte) : Byte := if value < low then low else if high < value then high else value

/-- The event mask of a record: bits 11..0 of bytes 17 and 18 (R178). -/
def recordMask (r : Vector Byte 28) : BitVec 12 := (ofBytes r[17] r[18]).extractLsb' 0 12

/-- The configured weight of a port: 0 becomes 1 for an enabled port, a disabled port's is not clamped (R6). -/
def recordWeight (byte : Byte) : Weight :=
  if byte.getLsbD 7 && (byte.extractLsb' 0 4 == 0#4) then 1 else byte.extractLsb' 0 4

/-- The enable, group and configured weight that a port byte gives, the rest at reset values (R7, R15, R178). -/
def recordPort (byte : Byte) : Port :=
  { Port.reset with
    enabled := byte.getLsbD 7
    group := ⟨(byte.toNat >>> 4) % 4, Nat.mod_lt _ (by decide)⟩
    weight := recordWeight byte }

/-- The port byte of a record (R178). -/
def recordPortByte (r : Vector Byte 28) (p : PortNo) : Byte := r[19 + p.val]

/-- "The low 8 bits of the sum" of bucket code, seed high, seed low and clamped announce interval (R8). -/
def parameterChecksum (bucketCode : BitVec 2) (seed : Half) (announce : Byte) : Byte :=
  bucketCode.setWidth 8 + highByte seed + lowByte seed + announce

/-- An action field of the record, with REPORT for the code that R4 refuses. -/
def recordAction (code : BitVec 2) : Action := (actionOfCode code).getD .report

/-- The parameters that a good record hands out, clamped (R6, R7, R178). -/
def recordParams (r : Vector Byte 28) : Params :=
  { bucketCode := r[3].extractLsb' 0 2
    seed := ofBytes r[4] r[5]
    announce := clampByte 1 255 r[6]
    silenceLimit := clampByte 2 15 r[7]
    cadenceWindow := clampByte 1 64 r[8]
    errorWindow := clampByte 1 255 r[9]
    threshold := clampByte 1 255 r[10]
    codeAction := recordAction (r[11].extractLsb' 4 2)
    slipAction := recordAction (r[11].extractLsb' 2 2)
    frameAction := recordAction (r[11].extractLsb' 0 2)
    cleanWindows := clampByte 1 15 r[12]
    restoreWait := clampByte 1 255 r[13]
    rampSteps := clampByte 1 8 r[14]
    rampInterval := clampByte 1 255 r[15]
    presenceInUse := r[16].getLsbD 0
    checksum := parameterChecksum (r[3].extractLsb' 0 2) (ofBytes r[4] r[5]) (clampByte 1 255 r[6]) }

/-- Whether any clamp of R6 changes a value of the record. -/
def recordClamped (r : Vector Byte 28) : Bool :=
  (recordParams r).announce != r[6] || (recordParams r).silenceLimit != r[7] ||
  (recordParams r).cadenceWindow != r[8] || (recordParams r).errorWindow != r[9] ||
  (recordParams r).threshold != r[10] || (recordParams r).cleanWindows != r[12] ||
  (recordParams r).restoreWait != r[13] || (recordParams r).rampSteps != r[14] ||
  (recordParams r).rampInterval != r[15] ||
  (List.finRange 8).any fun p =>
    recordWeight (recordPortByte r p) != (recordPortByte r p).extractLsb' 0 4

/-- The sum of the 28 bytes mod 256 (R4). -/
def recordSum (r : Vector Byte 28) : Byte := r.toList.foldl (· + ·) 0

/-- The first check of R4 that fails gives the fault cause; none is a good record. -/
def recordFault (r : Vector Byte 28) : Option FaultCause :=
  if recordSum r ≠ 0 then some .badChecksum
  else if ofBytes r[0] r[1] ≠ 0x5547 then some .badMagic
  else if r[2] ≠ 1 then some .badVersion
  else if (actionOfCode (r[11].extractLsb' 4 2)).isNone || (actionOfCode (r[11].extractLsb' 2 2)).isNone ||
      (actionOfCode (r[11].extractLsb' 0 2)).isNone then some .badAction
  else none

/-! ### Map words (R133, R180) -/

/-- How many bits of a stored word are set. -/
def setBits (w : MapWord) : Nat := (List.range 17).foldl (fun n i => if w.getLsbD i then n + 1 else n) 0

/-- A primary or backup field: bit 7 when present, the id below it; all bits clear when absent (R180). -/
def idField : Option UplinkId → BitVec 8
  | none => 0
  | some u => BitVec.ofNat 8 (128 + u.val)

/-- The stored word of an entry: primary in bits 16..9, backup in bits 8..1, and in bit 0 the parity that makes the
number of set bits odd (R133, R180). -/
def mapWord (primary backup : Option UplinkId) : MapWord :=
  if setBits (idField primary ++ idField backup ++ 0#1) % 2 = 0 then idField primary ++ idField backup ++ 1#1
  else idField primary ++ idField backup ++ 0#1

/-- A field of a stored word read back; none where an absent field has id bits that are not all 0 (R133, R180). -/
def readField (field : BitVec 8) : Option (Option UplinkId) :=
  if field.getLsbD 7 then some (some ⟨field.toNat % 128, Nat.mod_lt _ (by decide)⟩)
  else if field = 0 then some none else none

/-- The entry in a stored word, or none for a parity failure: even parity, a field that is not well formed, a backup
without a primary, or a backup equal to the primary (R133, R180). -/
def readWord (w : MapWord) : Option (Option UplinkId × Option UplinkId) :=
  if setBits w % 2 = 0 then none
  else
    match readField (w.extractLsb' 9 8), readField (w.extractLsb' 1 8) with
    | some none, some none => some (none, none)
    | some (some p), some none => some (some p, none)
    | some (some p), some (some b) => if p = b then none else some (some p, some b)
    | some none, some (some _) => none
    | some _, none => none
    | none, _ => none

/-! ### Codes of the inspection port (R165, R179) -/

/-- What the station decides at the taking of a command (R165). -/
inductive CommandStatus where
  | accepted | busy | badArgument | notConfigured | wrongState
  deriving DecidableEq, Repr

/-- The status byte (R179). -/
def statusByte : CommandStatus → Byte
  | .accepted => 0x5A
  | .busy => 0x5B
  | .badArgument => 0x61
  | .notConfigured => 0x62
  | .wrongState => 0x63

/-- The byte clocked out before the status and past the end of a reply (R179). -/
def fillByte : Byte := 0xFF

/-- The argument bytes that a command byte is followed by, or none when it names no command (R164, R179). -/
def argumentLength (byte : Byte) : Option Nat :=
  if byte = 0x10 then some 0 else if byte = 0x11 then some 1 else if byte = 0x12 then some 1
  else if byte = 0x13 then some 1 else if byte = 0x14 then some 4 else if byte = 0x15 then some 0
  else if byte = 0x16 then some 0 else if byte = 0x20 then some 2 else if byte = 0x21 then some 2
  else if byte = 0x30 then some 1 else if byte = 0x31 then some 1 else if byte = 0x40 then some 0
  else if byte = 0x41 then some 0 else if byte = 0x4F then some 0 else none

/-- The station state code (R179). LOADING is never returned; its code 0 is the model's (DESIGN CHOICE, log entry 12).
-/
def stationCode : StationState → Byte
  | .loading => 0
  | .configFault => 1
  | .joining => 2
  | .operating => 3
  | .quiet => 4
  | .muted => 5

/-- The fault cause code (R179). -/
def causeCode : Option FaultCause → Byte
  | none => 0
  | some .noAcknowledge => 1
  | some .badChecksum => 2
  | some .badMagic => 3
  | some .badVersion => 4
  | some .badAction => 5

/-- The peer state code (R179). -/
def peerCode : PeerState → Byte
  | .absent => 0
  | .present => 1
  | .silent => 2
  | .mismatch => 3
  | .localEntry => 4

/-- The mismatch source code (R179). -/
def sourceCode : Option MismatchSource → Byte
  | none => 0
  | some .byJoin => 1
  | some .byChecksum => 2

/-- The light state code (R179). -/
def lightCode : LightState → Byte
  | .noLight => 0
  | .light => 1
  | .flicker => 2

/-- The severity code (R179). -/
def severityCode : Severity → Byte
  | .none => 0
  | .advisory => 1
  | .action => 2
  | .fatal => 3

/-- A candidate's condition code: as in reports, NOT HEARD 7 (R102, R179). -/
def candidateConditionCode : Option Condition → Byte
  | none => 7
  | some c => (conditionCode c).setWidth 8

/-- An uplink id in a reply, 0xFF when absent (R179). -/
def optionalId : Option UplinkId → Byte
  | none => 0xFF
  | some u => BitVec.ofNat 8 u.val

/-- One bit of a flags byte. -/
def flagBit (set : Bool) (bit : Nat) : Byte := if set then (1#8) <<< bit else 0

/-- A two-byte value in a reply, high byte first (R179). -/
def halfBytes (h : Half) : List Byte := [highByte h, lowByte h]

/-- The via code on LR_VIA (R181). -/
def viaCode : Via → BitVec 3
  | .notReady => 0
  | .primary => 1
  | .backup => 2
  | .lastResort => 3
  | .none => 4

end Sys2Proof.Machine
end

