-- ==== Sys2Proof/Decode.lean ====
section
/-! DEFINITION. Reading commands from bits. No row of the table gives bits, so `decodeTableWord` reads none; the bytes
of an inspection transaction (R164, R179) are read and written here beside it. -/

namespace Sys2Proof

open Sys2Proof.Machine

/-- The command that a word spells by the table's bits: no row gives any. -/
def decodeTableWord (_nbits _w : Nat) : Option Instr := none

/-- The command that the bytes of an inspection transaction take, once the last of its argument bytes is complete; none
while bytes are still to come. Bytes after the last argument are ignored (R164, R179). -/
def takenCommand (bytes : List Byte) : Option Instr :=
  match bytes with
  | [] => none
  | c :: args =>
    match argumentLength c with
    | none => some (.unknownCommand c)
    | some n =>
      if args.length < n then none
      else if c = 0x10 then some .status
      else if c = 0x11 then some (.readUplink (args.getD 0 0))
      else if c = 0x12 then some (.readPeer (args.getD 0 0))
      else if c = 0x13 then some (.readCandidate (args.getD 0 0))
      else if c = 0x14 then
        some (.readEntry (args.getD 0 0) (ofBytes (args.getD 1 0) (args.getD 2 0)) (args.getD 3 0))
      else if c = 0x15 then some .readCounters
      else if c = 0x16 then some .readEvents
      else if c = 0x20 then some (.clearEvents (ofBytes (args.getD 0 0) (args.getD 1 0)))
      else if c = 0x21 then some (.setMask (ofBytes (args.getD 0 0) (args.getD 1 0)))
      else if c = 0x30 then some (.drain (args.getD 0 0))
      else if c = 0x31 then some (.undrain (args.getD 0 0))
      else if c = 0x40 then some .quiet
      else if c = 0x41 then some .wake
      else some .restart

/-- The bytes of an inspection command, in the order in which the host clocks them in (R179); none for a command that is
no inspection command. -/
def inspectionBytes (i : Instr) : Option (List Byte) :=
  match i with
  | .unknownCommand byte => some [byte]
  | .status => some [0x10]
  | .readUplink port => some [0x11, port]
  | .readPeer station => some [0x12, station]
  | .readCandidate uplink => some [0x13, uplink]
  | .readEntry group bucket bank => some [0x14, group, highByte bucket, lowByte bucket, bank]
  | .readCounters => some [0x15]
  | .readEvents => some [0x16]
  | .clearEvents mask => some [0x20, highByte mask, lowByte mask]
  | .setMask mask => some [0x21, highByte mask, lowByte mask]
  | .drain port => some [0x30, port]
  | .undrain port => some [0x31, port]
  | .quiet => some [0x40]
  | .wake => some [0x41]
  | .restart => some [0x4F]
  | _ => none

end Sys2Proof
end

