-- ==== Sys2Proof/Machine/Flags.lean ====
section
/-! DEFINITION. The event unit's flags: the kinds and their severities, a raise, a clearing, a change of mask, and the
interrupt output and pending severity that follow (R170, R171, R173 to R176), and the pin INT_N (R182). -/

namespace Sys2Proof.Machine

/-- The number of a kind: its place in the flags and the mask (section 10.4). -/
def eventNumber : EventKind → Nat
  | .uplinkDark => 0
  | .uplinkDegraded => 1
  | .uplinkRestored => 2
  | .errorReport => 3
  | .peerLost => 4
  | .peerMismatch => 5
  | .viewDivergence => 6
  | .busGiveUp => 7
  | .mapParity => 8
  | .mapFault => 9
  | .stationClash => 10
  | .configFault => 11

/-- The fixed severity of a kind (section 10.4). -/
def eventSeverity : EventKind → Severity
  | .uplinkDark => .action
  | .uplinkDegraded => .advisory
  | .uplinkRestored => .advisory
  | .errorReport => .advisory
  | .peerLost => .action
  | .peerMismatch => .action
  | .viewDivergence => .advisory
  | .busGiveUp => .advisory
  | .mapParity => .advisory
  | .mapFault => .fatal
  | .stationClash => .fatal
  | .configFault => .fatal

/-- The twelve kinds, by number. -/
def eventKinds : List EventKind :=
  [.uplinkDark, .uplinkDegraded, .uplinkRestored, .errorReport, .peerLost, .peerMismatch, .viewDivergence, .busGiveUp,
   .mapParity, .mapFault, .stationClash, .configFault]

/-- Whether a kind's flag is pending. -/
def isPending (pending : BitVec 12) (kind : EventKind) : Bool := pending.getLsbD (eventNumber kind)

/-- Whether a kind counts for the interrupt: unmasked, or FATAL whatever its mark (R175, R176). -/
def countsForInterrupt (mask : BitVec 12) (kind : EventKind) : Bool :=
  eventSeverity kind == .fatal || !mask.getLsbD (eventNumber kind)

/-- Whether some pending flag of the given severity counts for the interrupt. -/
def pendingOf (pending mask : BitVec 12) (severity : Severity) : Bool :=
  eventKinds.any fun k => isPending pending k && countsForInterrupt mask k && eventSeverity k == severity

/-- The pending severity that R176 gives: the highest among the pending flags that count. -/
def severityFor (pending mask : BitVec 12) : Severity :=
  if pendingOf pending mask .fatal then .fatal
  else if pendingOf pending mask .action then .action
  else if pendingOf pending mask .advisory then .advisory
  else .none

/-- The interrupt output that R176 gives: asserted while some pending flag counts. -/
def interruptFor (pending mask : BitVec 12) : Bool :=
  eventKinds.any fun k => isPending pending k && countsForInterrupt mask k

/-- Brings the interrupt output and the pending severity to agree with the flags and the mask (R176). -/
def agreeEvents (e : EventUnit) : EventUnit :=
  { e with severity := severityFor e.pending e.mask, interrupt := interruptFor e.pending e.mask }

/-- What an open-drain output does with its pin: it drives it low, or releases it (section 11.5). -/
inductive OpenDrain where
  | drivenLow
  | released
  deriving DecidableEq, Repr

/-- The pin INT_N: driven low while the interrupt output is asserted, and released while it is released (R182). -/
def interruptPin (e : EventUnit) : OpenDrain := if e.interrupt then .drivenLow else .released

/-- The bit of a kind in the flags. -/
def eventBit (kind : EventKind) : BitVec 12 := (1#12) <<< eventNumber kind

/-- The flags with those of some raises set. -/
def withFlags (pending : BitVec 12) (raises : List Raise) : BitVec 12 :=
  raises.foldl (fun flags r => flags ||| eventBit r.kind) pending

/-- The raises of one event that are new, of a kind that counts for the interrupt: any of them may be taken first and
fill an empty first-event record (R174, R175). -/
def fillingRaises (e : EventUnit) (raises : List Raise) : List Raise :=
  raises.filter fun r => !isPending e.pending r.kind && countsForInterrupt e.mask r.kind

/-- The raise that is taken first: the only one there is, or the one the choice names among several. -/
def firstTaken (choice : Nat) : List Raise → Option Raise
  | [] => none
  | [r] => some r
  | r :: r' :: rest => some ((r :: r' :: rest).getD (choice % (r :: r' :: rest).length) r)

/-- The raises of one event, taken together (R174, R175, R176); `choice` says which is taken first. -/
def raiseFlags (choice : Nat) (raises : List Raise) (e : EventUnit) : EventUnit :=
  if raises.isEmpty then e
  else agreeEvents
    { e with
      pending := withFlags e.pending raises
      record := match e.record with
        | some r => some r
        | none => firstTaken choice (fillingRaises e raises) }

/-- Whether the record a set of raises leaves depends on which is taken first. -/
def orderMatters (e : EventUnit) (raises : List Raise) : Bool :=
  e.record.isNone && decide (1 < (fillingRaises e raises).length)

/-- Clears the flags of the named kinds; the record is emptied when no flag remains (R170). -/
def clearFlags (named : BitVec 12) (e : EventUnit) : EventUnit :=
  agreeEvents
    { e with
      pending := e.pending &&& ~~~named
      record := if e.pending &&& ~~~named = 0 then none else e.record }

/-- Replaces the event mask (R171). -/
def replaceMask (mask : BitVec 12) (e : EventUnit) : EventUnit := agreeEvents { e with mask := mask }

end Sys2Proof.Machine
end

