-- ==== Sys2Proof/Machine/Line.lean ====
section
/-! DEFINITION. The failover bus below the notices: the line coder (R52), what the clock recovery makes of a cell (R55,
R56) and the frame receiver (R57 to R59). -/

namespace Sys2Proof.Machine

/-- The bits of a byte, most significant first: each is the value of one cell (R52). -/
def byteCells (b : Byte) : List Bool := (List.range 8).map fun i => b.getLsbD (7 - i)

/-- The delimiter, the byte 0xD2 (R52). -/
def delimiter : Byte := 0xD2

/-- The cells of a frame: 16 of value 1, the delimiter, the notice bytes (R52); `true` is a cell of value 1. -/
def frameCells (bytes : List Byte) : List Bool :=
  List.replicate 16 true ++ byteCells delimiter ++ bytes.flatMap byteCells

/-- FM0 (R52): from the level at which the line stands, the level in the two halves of each cell. "The level changes at
the start of every cell. A cell of value 0 has a second change at its middle, and a cell of value 1 has none." -/
def fm0Levels (level : Bool) : List Bool → List (Bool × Bool)
  | [] => []
  | true :: cells => (!level, !level) :: fm0Levels (!level) cells
  | false :: cells => (!level, level) :: fm0Levels level cells

/-- What the line coder drives for a frame, from the released line, which is high (R51, R52). -/
def codedFrame (bytes : List Byte) : List (Bool × Bool) := fm0Levels true (frameCells bytes)

/-- The cells that a recovery in step with the line sees in undisturbed levels, from the level before them. -/
def seenCells (level : Bool) : List (Bool × Bool) → List LineCell
  | [] => []
  | (first, second) :: rest =>
    { boundary := if first = level then none else some 0, middle := first != second } :: seenCells second rest

/-- The decoded value of a cell: 0 when a transition fell in its middle part, 1 when none did; none is a missed cell
(R55, R56). -/
def cellValue (c : LineCell) : Option Bool := c.boundary.map fun _ => !c.middle

/-- The correction of the cell timing, toward the observed boundary transition, by its offset from the expected
moment; none for a missed cell (R55, R56). -/
def timingCorrection (offset : Option Int) : Int :=
  match offset with
  | none => 0
  | some offset =>
    if offset < 0 then -Config.correctionPicoseconds else if 0 < offset then Config.correctionPicoseconds else 0

/-- The clock recovery at the end of a cell that leaves it in TRACK (R55, R56): the next boundary is expected a cell
later, corrected by the boundary transition of the cell, and the missed-cell count is that of the cell. -/
def timeCell (b : Bus) (offset : Option Int) : Bus :=
  { b with
    boundary := b.boundary + Config.cellPicoseconds + timingCorrection offset
    missed := if offset.isNone then 1 else 0 }

/-- The clock recovery after some cells, by their boundary transitions; in SEEK no cell is decoded (R54, R55). -/
def timeCells (offsets : List (Option Int)) (b : Bus) : Bus :=
  if b.recovery = .track then offsets.foldl timeCell b else b

/-- A frame that the receiver hands on, with its outcome (R59). -/
inductive Handed where
  | complete (bytes : List Byte)
  | codeViolation
  | truncated
  deriving DecidableEq, Repr

/-- The cells of the delimiter after its two leading ones (R57). -/
def delimiterTail : List Bool := [false, true, false, false, true, false]

/-- Ones that must stand in a row before the delimiter's first 0: the eight before it and its own two (R57). -/
def onesBeforeZero : Nat := 10

/-- The run count after a cell: it rises with a 1 and returns to 0 at a 0 or a missed cell (R57). -/
def nextRun (run : Nat) : Option Bool → Nat
  | some true => run + 1
  | some false => 0
  | none => 0

/-- How many cells of the delimiter's tail stand matched after a cell (R57). -/
def nextMatched (run matched : Nat) (value : Option Bool) : Nat :=
  if matched = 0 then (if value = some false ∧ onesBeforeZero ≤ run then 1 else 0)
  else if value = delimiterTail[matched]? then matched + 1 else 0

/-- A cell in HUNT (R57). -/
def huntCell (r : Receiver) (value : Option Bool) : Receiver :=
  if nextMatched r.run r.matched value = delimiterTail.length then { Receiver.reset with phase := .frame }
  else { r with run := nextRun r.run value, matched := nextMatched r.run r.matched value }

/-- A byte from its eight bits, most significant first (R58). -/
def byteOfBits (bits : List Bool) : Byte :=
  bits.foldl (fun b bit => (b <<< 1) ||| (if bit then 1#8 else 0#8)) 0

/-- A byte complete in FRAME (R58, R59): the frame is handed on at once when its first byte names no kind, and at its
declared length. -/
def frameByte (r : Receiver) (bytes : List Byte) (violated : Bool) : Receiver × Option Handed :=
  match declaredLength (bytes.headD 0) with
  | none => ({ Receiver.reset with phase := .spent }, some .codeViolation)
  | some length =>
    if bytes.length = length then
      ({ Receiver.reset with phase := .spent }, some (if violated then .codeViolation else .complete bytes))
    else ({ r with bytes := bytes, bits := [], violated := violated }, none)

/-- A cell in FRAME (R58, R59): a missed cell marks the frame with a code violation and keeps its place with the
value 1. -/
def frameCell (r : Receiver) (value : Option Bool) : Receiver × Option Handed :=
  if r.bits.length + 1 < 8 then
    ({ r with bits := r.bits ++ [value.getD true], violated := r.violated || value.isNone }, none)
  else frameByte r (r.bytes ++ [byteOfBits (r.bits ++ [value.getD true])]) (r.violated || value.isNone)

/-- One cell at the frame receiver (R57 to R59). -/
def receiveCell (r : Receiver) (value : Option Bool) : Receiver × Option Handed :=
  match r.phase with
  | .hunt => (huntCell r value, none)
  | .frame => frameCell r value
  | .spent => (r, none)

/-- The receiver after a run of cells, without what it hands on (R60: an echo is not handed on). -/
def receiveSilently (r : Receiver) (values : List (Option Bool)) : Receiver :=
  values.foldl (fun r v => (receiveCell r v).1) r

/-- The cells of value 1 and 0 that an attempt sends (R52, R63). -/
def sentCells (f : InFlight) : List Bool := frameCells f.frame

/-- The frame receiver after the first `place` cells of an attempt, which agreed with what was sent (R60, R64). -/
def agreedReceiver (f : InFlight) (place : Nat) (b : Bus) : Receiver :=
  receiveSilently b.receiver (((sentCells f).take place).map some)

/-- The recovery and the receiver after the first cells of an attempt, which agreed with what was sent, by the offsets
of their boundary transitions (R55, R60, R64); in SEEK no cell is decoded (R54). -/
def hearEcho (f : InFlight) (offsets : List (Option Int)) (b : Bus) : Bus :=
  if b.recovery = .track then { timeCells offsets b with receiver := agreedReceiver f offsets.length b } else b

/-- The line becomes IDLE at the frame receiver: a frame still in FRAME is handed on TRUNCATED (R58, R59). -/
def lineIdleHands (r : Receiver) : Option Handed := if r.phase = .frame then some .truncated else none

/-- Echo compare finds a collision in a sent cell (R64): the heard value differs, or the cell is missed, or the recovery
is still in SEEK. -/
def isCollision (recovery : Recovery) (sent : Bool) (heard : LineCell) : Bool :=
  recovery == .seek || cellValue heard != some sent

end Sys2Proof.Machine
end

