-- ==== Sys2Proof/Machine/I2c.lean ====
section
/-! DEFINITION. The loader's side of the I2C bus (R3): what it drives on SCL and SDA for each element of a read
attempt, and how it goes on from one cell of 100 ns to the next. -/

namespace Sys2Proof.Machine

/-- What the loader does to SCL and SDA: `true` leaves the line released, `false` holds it low (both are open drain). -/
structure I2cDrive where
  scl : Bool
  sda : Bool
  deriving DecidableEq, Repr

/-- One clock, in quarters: SDA takes its level while SCL is low, and holds it while SCL is high (R3). -/
def clockBit (sda : Bool) : List I2cDrive := [⟨false, sda⟩, ⟨true, sda⟩, ⟨true, sda⟩, ⟨false, sda⟩]

/-- What the loader drives for an element, in quarters of an SCL period. "A start condition is a fall of SDA while SCL
is high, and a stop condition is a rise of SDA while SCL is high"; "the side receiving the byte acknowledges by
holding SDA low" (R3). Where the EEPROM sends or acknowledges, the loader leaves SDA released. -/
def elementDrives : I2cElement → List I2cDrive
  | .start => [⟨true, true⟩, ⟨true, false⟩, ⟨true, false⟩, ⟨false, false⟩]
  | .repeatedStart => [⟨false, true⟩, ⟨true, true⟩, ⟨true, false⟩, ⟨false, false⟩]
  | .stop => [⟨false, false⟩, ⟨true, false⟩, ⟨true, true⟩, ⟨true, true⟩]
  | .send byte => (byteCells byte).flatMap clockBit
  | .listen => clockBit true
  | .receive => (List.replicate 8 true).flatMap clockBit
  | .acknowledge given => clockBit (!given)

/-- What the loader drives now: the quarter it has reached, or both lines released. -/
def loaderDrive (l : Loader) : I2cDrive :=
  match l.bus with
  | [] => ⟨true, true⟩
  | e :: _ => (elementDrives e).getD l.quarter ⟨true, true⟩

/-- The loader takes up a list of elements on the bus, from the first quarter of the first; with none it releases SCL
and SDA. -/
def takeUpBus (elements : List I2cElement) (l : Loader) : Loader := { l with bus := elements, quarter := 0, cells := 0 }

/-- The loader after a quarter of a clock: the next quarter of the element, or the next element. -/
def nextQuarter (l : Loader) : Loader :=
  match l.bus with
  | [] => l
  | e :: rest =>
    if l.quarter + 1 < (elementDrives e).length then { l with quarter := l.quarter + 1, cells := 0 }
    else takeUpBus rest l

/-- The loader's side of the bus after one cell of 100 ns: SCL runs at 100 kHz, and the loader waits where it has
released SCL and the EEPROM holds it low (R3). -/
def tickBus (sclHeld : Bool) (l : Loader) : Loader :=
  if l.bus.isEmpty || ((loaderDrive l).scl && sclHeld) then l
  else if l.cells + 1 < Config.cellsPerQuarterClock then { l with cells := l.cells + 1 }
  else nextQuarter l

end Sys2Proof.Machine
end

