-- ==== Sys2Proof/Machine/Score.lean ====
section
/-! DEFINITION. The bucket scoring arithmetic (chapter 7): keys, raw and weighted scores, and the score unit's choice of
leader and runner-up. -/

namespace Sys2Proof.Machine

/-- "(g × 2048 + b) × 128 + u" (R116). -/
def scoreKey (g : Group) (b : Bucket) (u : UplinkId) : Nat := (g.val * 2048 + b.val) * 128 + u.val

/-- The raw score of a key: the remainder of m × m + k on division by 65,521, with m = k + S (R117). -/
def rawScore (seed : Half) (key : Nat) : Nat :=
  ((key + seed.toNat) * (key + seed.toNat) + key) % Config.scoreModulus

/-- The weighted score of a candidate in a bucket: raw score × effective weight (R119). -/
def weightedScore (seed : Half) (g : Group) (b : Bucket) (pair : SnapshotPair) : Nat :=
  rawScore seed (scoreKey g b pair.uplink) * pair.weight.toNat

/-- Candidate x ranks above candidate y in a bucket (R120). -/
def RanksAbove (seed : Half) (g : Group) (b : Bucket) (x y : SnapshotPair) : Prop :=
  weightedScore seed g b y < weightedScore seed g b x ∨
  (weightedScore seed g b x = weightedScore seed g b y ∧ x.uplink < y.uplink)

/-- A candidate of a snapshot that ranks above every other (R121). -/
def RanksFirst (seed : Half) (g : Group) (b : Bucket) (snapshot : List SnapshotPair) (x : SnapshotPair) : Prop :=
  x ∈ snapshot ∧ ∀ y ∈ snapshot, y ≠ x → RanksAbove seed g b x y

/-- The score unit places a candidate (R115): as leader where there is none or it scores above it, the leader then
becoming the runner-up; else as runner-up where there is none or it scores above it; else it is passed over. -/
def placeScored (unit : ScoreUnit) (x : Scored) : ScoreUnit :=
  match unit.leader with
  | none => { unit with leader := some x, place := unit.place + 1 }
  | some leader =>
    if leader.score < x.score then { leader := some x, runnerUp := some leader, place := unit.place + 1 }
    else
      match unit.runnerUp with
      | none => { unit with runnerUp := some x, place := unit.place + 1 }
      | some runnerUp =>
        if runnerUp.score < x.score then { unit with runnerUp := some x, place := unit.place + 1 }
        else { unit with place := unit.place + 1 }

/-- A candidate of the snapshot as the score unit scores it. -/
def scoredPair (seed : Half) (g : Group) (b : Bucket) (pair : SnapshotPair) : Scored :=
  { uplink := pair.uplink, score := weightedScore seed g b pair }

/-- The score unit takes the candidates of the snapshot from its place to the end, in order (R115). -/
def scoreRest (seed : Half) (g : Group) (b : Bucket) (snapshot : List SnapshotPair) (unit : ScoreUnit) : ScoreUnit :=
  (snapshot.drop unit.place).foldl (fun unit pair => placeScored unit (scoredPair seed g b pair)) unit

/-- The primary: the leader at the end of the snapshot (R115). -/
def unitPrimary (unit : ScoreUnit) : Option UplinkId := unit.leader.map Scored.uplink

/-- The backup: the runner-up at the end of the snapshot (R115). -/
def unitBackup (unit : ScoreUnit) : Option UplinkId := unit.runnerUp.map Scored.uplink

/-- The primary that the arithmetic gives a bucket from a snapshot (R121). -/
def bucketPrimary (seed : Half) (g : Group) (b : Bucket) (snapshot : List SnapshotPair) : Option UplinkId :=
  unitPrimary (scoreRest seed g b snapshot ScoreUnit.reset)

/-- The backup that the arithmetic gives a bucket from a snapshot (R121). -/
def bucketBackup (seed : Half) (g : Group) (b : Bucket) (snapshot : List SnapshotPair) : Option UplinkId :=
  unitBackup (scoreRest seed g b snapshot ScoreUnit.reset)

/-- The bucket count B of a bucket code (R7). -/
def bucketCount (code : BitVec 2) : Nat := 256 * 2 ^ code.toNat

/-- The reduction of a requested bucket mod B (R125). -/
def reducedBucket (code : BitVec 2) (b : Bucket) : Bucket :=
  ⟨b.val % bucketCount code, Nat.lt_of_le_of_lt (Nat.mod_le _ _) b.isLt⟩

/-- The steps of 20 ns that a bucket takes with n candidates (R141). -/
def stepsPerBucket (n : Nat) : Nat := (max n 1 + 3) / 4

/-- The duration in nanoseconds of a recompute that meets no failed write (R141); the time is not enforced (log
entry 18). -/
def recomputeNanoseconds (code : BitVec 2) (n : Nat) : Nat := 2000 + bucketCount code * stepsPerBucket n * 20

end Sys2Proof.Machine
end

