-- ==== Sys2Proof/Machine/Ops.lean ====
section
/-! DEFINITION. The operations that several commands share: counters, timers, raises, notice demands, changes of the
candidate table, the engine's search, changes of port conditions and of peer entries, map memory, entering QUIET, a
clash, and the reset. -/

namespace Sys2Proof.Machine

/-! ### Counters (R73, R168) -/

/-- A 16-bit count that stays at 65,535 (R73, R168). -/
def saturatingHalf (n : Half) : Half := if n = 0xFFFF then n else n + 1

/-- An error counter, which stays at 255 (R37). -/
def saturatingByte (n : Byte) : Byte := if n = 0xFF then n else n + 1

/-- The place of a counter in the table of R168. -/
def counterIndex : Counter → Fin 21
  | .sentJoin => 0
  | .sentState => 1
  | .sentAlert => 2
  | .sentSolicit => 3
  | .sentLeave => 4
  | .collisionAborts => 5
  | .giveUps => 6
  | .receivedJoin => 7
  | .receivedState => 8
  | .receivedAlert => 9
  | .receivedSolicit => 10
  | .receivedLeave => 11
  | .crcFailures => 12
  | .codeViolations => 13
  | .truncations => 14
  | .staleNotices => 15
  | .unseatedNotices => 16
  | .recomputes => 17
  | .flips => 18
  | .parityFailures => 19
  | .flickers => 20

/-- The value of a station counter. -/
def counterOf (c : Counter) (s : State) : Half := s.counters[counterIndex c]

/-- A station counter rises by 1 (R168). -/
def bump (c : Counter) (s : State) : State :=
  { s with counters := s.counters.set (counterIndex c) (saturatingHalf s.counters[counterIndex c]) }

/-- A station counter rises by 1 for each of `n` moves that fall in one event. -/
def bumpTimes (c : Counter) (n : Nat) (s : State) : State :=
  { s with counters := s.counters.set (counterIndex c) (Nat.repeat saturatingHalf n s.counters[counterIndex c]) }

/-! ### Station states and timers -/

/-- The states in which bus receive is on, the monitors and the grader run and the tables take changes (R1, R16, R36,
R93): all but LOADING and CONFIG FAULT. -/
def receiveOn : StationState → Bool
  | .loading => false
  | .configFault => false
  | .joining => true
  | .operating => true
  | .quiet => true
  | .muted => true

/-- The states in which lookups are served (R1, R154). -/
def servesLookups : StationState → Bool
  | .loading => false
  | .configFault => false
  | .joining => false
  | .operating => true
  | .quiet => false
  | .muted => true

/-- The states in which the engine may start a recompute (R138). -/
def engineMayStart : StationState → Bool
  | .loading => false
  | .configFault => false
  | .joining => false
  | .operating => true
  | .quiet => true
  | .muted => true

/-- The "Bus transmit" column of R1. -/
def transmitAllowed (station : StationState) (kind : EntryKind) : Bool :=
  match station with
  | .loading => false
  | .configFault => false
  | .joining => true
  | .operating => true
  | .quiet => kind == .leave
  | .muted => false

/-- Whether a timer runs. -/
def isRunning : Timer → Bool
  | .stopped => false
  | .running _ => true

/-- Join settle time, 2 × A (R9). -/
def settleTime (p : Params) : Timer := .running (2 * p.announce.toNat * Config.cellsPerMillisecond)

/-- Announce time, A (R76). -/
def announceTime (p : Params) : Timer := .running (p.announce.toNat * Config.cellsPerMillisecond)

/-- Solicit holdoff time, 4 × A (R77). -/
def holdoffTime (p : Params) : Timer := .running (4 * p.announce.toNat * Config.cellsPerMillisecond)

/-- Silence time, silence limit × A (R91). -/
def silenceTime (p : Params) : Timer :=
  .running (p.silenceLimit.toNat * p.announce.toNat * Config.cellsPerMillisecond)

/-- Cadence window (R6, R16). -/
def cadenceTime (p : Params) : Timer := .running (p.cadenceWindow.toNat * Config.cellsPerMicrosecond)

/-- Error window (R6, R35). -/
def errorTime (p : Params) : Timer := .running (p.errorWindow.toNat * Config.cellsPerMillisecond)

/-- Restore wait (R6, R15). -/
def restoreTime (p : Params) : Timer := .running (p.restoreWait.toNat * Config.cellsPer100Milliseconds)

/-- Ramp interval (R6, R15). -/
def rampTime (p : Params) : Timer := .running (p.rampInterval.toNat * Config.cellsPer100Milliseconds)

/-! ### Raises (R174 to R176) -/

/-- The raises of one event reach the event unit together; where the record depends on which is taken first, the free
value decides, and the model's counter moves on. -/
def raiseEvents (raises : List Raise) (s : State) : State :=
  { s with
    events := raiseFlags (Config.raiseFirst s.freeCount) raises s.events
    freeCount := if orderMatters s.events raises then s.freeCount + 1 else s.freeCount }

/-- A raise with no subject. -/
def raiseOf (kind : EventKind) : Raise := { kind := kind, subject := none }

/-- A raise whose subject is a port, a station or a group number. -/
def raiseAbout (kind : EventKind) (subject : Nat) : Raise := { kind := kind, subject := some (BitVec.ofNat 8 subject) }

/-! ### The transmit queue (R68 to R72) -/

/-- The notice demands (R69). -/
inductive Demand where
  | join | state | alert | solicit | leave
  deriving DecidableEq, Repr

/-- The kind of entry that a demand queues (R69). -/
def demandKind : Demand → EntryKind
  | .join => .join
  | .state => .report
  | .alert => .report
  | .solicit => .solicit
  | .leave => .leave

/-- Gives the in-flight notice, if there is one, the final mark (R71). -/
def finalMark (inFlight : Option InFlight) : Option InFlight := inFlight.map fun f => { f with final := true }

/-- A LEAVE stands in the queue, or is in flight without the final mark (R69). -/
def leaveStands (b : Bus) : Bool :=
  b.queue.any (fun e => e.kind == .leave) ||
  match b.inFlight with
  | some f => f.entry.kind == .leave && !f.final
  | none => false

/-- A demand merges into the entry of its kind, which takes the urgency mark of an ALERT, or queues a new entry, the
youngest (R69). -/
def mergeDemand (d : Demand) (queue : List QueueEntry) : List QueueEntry :=
  if queue.any (fun e => e.kind == demandKind d) then
    queue.map fun e => if e.kind = demandKind d then { e with urgent := e.urgent || d == .alert } else e
  else queue ++ [{ kind := demandKind d, urgent := d == .alert, attempts := 0 }]

/-- An allowed demand at the transmit queue (R69). -/
def queueDemand (d : Demand) (b : Bus) : Bus :=
  if d = .leave then
    { b with queue := [{ kind := .leave, urgent := false, attempts := 0 }], inFlight := finalMark b.inFlight }
  else if leaveStands b then b
  else { b with queue := mergeDemand d b.queue }

/-- A demand is first checked against the station state, and dropped where that does not allow it (R1, R69). -/
def demand (d : Demand) (s : State) : State :=
  if transmitAllowed s.control.station (demandKind d) then { s with bus := queueDemand d s.bus } else s

/-- The demands of one event, one after the other. -/
def demands (ds : List Demand) (s : State) : State := ds.foldl (fun s d => demand d s) s

/-- Empties the queue and gives the in-flight notice the final mark: entry to QUIET, RESTART and WAKE (R71). -/
def emptyQueue (b : Bus) : Bus := { b with queue := [], inFlight := finalMark b.inFlight }

/-- Empties the queue and cuts the in-flight notice, the line released at once: a clash (R71). -/
def cutQueue (b : Bus) : Bus := { b with queue := [], inFlight := none, driver := .released }

/-- The place of the head: the REPORT entry that carries the urgency mark, else the oldest entry (R70). -/
def headPlace (queue : List QueueEntry) : Nat :=
  (queue.findIdx? fun e => e.kind == .report && e.urgent).getD 0

/-- The required wait of R62: the gap of the head, and the backoff owed. -/
def requiredWait (b : Bus) (head : QueueEntry) : Nat :=
  (if head.kind = .report ∧ head.urgent = true then Config.urgentGap else Config.routineGap) +
  match b.backoff with
  | some owed => owed.slots * Config.backoffSlotCells
  | none => 0

/-! ### Candidate entries, the view digest and the dirty flags (R103, R107, R109) -/

/-- An entry is a candidate when its condition is RAMPING, LIT or DEGRADED and its weight is at least 1 (R103). -/
def isCandidate (c : Candidate) : Bool :=
  match c.condition with
  | some condition => carriesTraffic condition && c.weight != 0
  | none => false

/-- A candidate of a group (R103). -/
def isCandidateOf (g : Group) (c : Candidate) : Bool := isCandidate c && c.group == g

/-- The contribution of an entry: 16 × group + weight for a candidate, else 0 (R107). -/
def contribution (c : Candidate) : Byte :=
  if isCandidate c then BitVec.ofNat 8 (16 * c.group.val + c.weight.toNat) else 0

/-- The candidate entry of an uplink. -/
def candidateAt (rows : Vector (Vector Candidate 8) 16) (u : UplinkId) : Candidate := rows[stationOf u][portOf u]

/-- The 128 contributions in id order (R107). -/
def contributions (rows : Vector (Vector Candidate 8) 16) : List Byte :=
  (List.finRange 128).map fun u => contribution (candidateAt rows u)

/-- The view digest: the CRC-16 over the 128 contributions (R107). -/
def viewDigest (rows : Vector (Vector Candidate 8) 16) : Half := crc16 (contributions rows)

/-- Whether a change of one entry calls for the dirty flag of a group: the contributions differ, and the old or the new
one names the group (R109). -/
def callsForDirty (g : Group) (old new : Candidate) : Bool :=
  contribution old != contribution new && (isCandidateOf g old || isCandidateOf g new)

/-- Whether the contribution of some entry of a row changes. -/
def rowContributes (old new : Vector Candidate 8) : Bool :=
  (List.finRange 8).any fun p => contribution old[p] != contribution new[p]

/-- One event at the candidate table changes the row of one station (R106): the entries, the digest where a
contribution changes (R108), and the dirty flags that the change calls for (R109). -/
def changeRow (station : StationNo) (row : Vector Candidate 8) (t : CandidateTable) : CandidateTable :=
  { rows := t.rows.set station row
    digest := if rowContributes t.rows[station] row then viewDigest (t.rows.set station row) else t.digest
    dirty := Vector.ofFn fun g =>
      t.dirty[g] || (List.finRange 8).any fun p => callsForDirty g t.rows[station][p] row[p] }

/-- Sets the dirty flag of a group (R110). -/
def markDirty (g : Group) (s : State) : State :=
  { s with table := { s.table with dirty := s.table.dirty.set g true } }

/-- Sets all four dirty flags (R110). -/
def markAllDirty (s : State) : State :=
  { s with table := { s.table with dirty := Vector.replicate 4 true } }

/-! ### The engine's search and the start of a recompute (R137 to R139) -/

/-- The order of a search: it begins with the group after the pointer and goes round (R137). -/
def searchOrder (pointer : Group) : List Group := [pointer + 1, pointer + 2, pointer + 3, pointer]

/-- A group that a search may take: its dirty flag is set and its fault flag is clear (R137). -/
def qualifies (s : State) (g : Group) : Bool := s.table.dirty[g] && !s.engine.fault[g]

/-- The group that a search takes, if any (R137). -/
def groupToTake (s : State) : Option Group := (searchOrder s.engine.pointer).find? (qualifies s)

/-- The candidate snapshot of a group: its candidates, in rising id order (R139). -/
def snapshotOf (rows : Vector (Vector Candidate 8) 16) (g : Group) : List SnapshotPair :=
  (List.finRange 128).filterMap fun u =>
    if isCandidateOf g (candidateAt rows u) then
      some { uplink := u, weight := (candidateAt rows u).weight }
    else none

/-- A recompute of a group starts (R139). -/
def startRecompute (g : Group) (s : State) : State :=
  bump .recomputes
    { s with
      table := { s.table with dirty := s.table.dirty.set g false }
      engine := { s.engine with
        run := .running g 0
        snapshot := snapshotOf s.table.rows g
        score := ScoreUnit.reset } }

/-- The engine searches, when it is IDLE and the station state lets it start (R137, R138). -/
def search (s : State) : State :=
  if s.engine.run = .idle ∧ engineMayStart s.control.station = true then
    match groupToTake s with
    | some g => startRecompute g s
    | none => s
  else s

/-! ### Port conditions (R20, R30 to R32) -/

/-- The effective weight of a port: the whole-number forms of R123 for the table of R20, with R the ramp steps. -/
def effectiveWeight (rampSteps : Nat) (p : Port) : Weight :=
  match p.condition with
  | .lit => p.weight
  | .ramping => BitVec.ofNat 4 ((p.weight.toNat * p.step + rampSteps - 1) / rampSteps)
  | .degraded => if p.weight.toNat / 2 = 0 then 1 else BitVec.ofNat 4 (p.weight.toNat / 2)
  | .off => 0
  | .dark => 0
  | .holding => 0
  | .drained => 0

/-- The candidate entry of a local port (R104). -/
def ownCandidate (rampSteps : Nat) (p : Port) : Candidate :=
  { source := .ownPort, condition := some p.condition, group := p.group, weight := effectiveWeight rampSteps p }

/-- The eight own candidate entries as the port monitors hand them over (R30, R104). -/
def ownRow (s : State) : Vector Candidate 8 :=
  Vector.ofFn fun p => ownCandidate s.params.rampSteps.toNat s.ports[p]

/-- The demand that a change of a port makes, by the table of R31; RAMPING to LIT demands a STATE whatever the weights
(section 2.8; log entry 11). -/
def portDemand (rampSteps : Nat) (old new : Port) : Option Demand :=
  if carriesTraffic old.condition ∧ new.condition = .dark then some .alert
  else if old.condition ≠ .off ∧ old.condition ≠ .drained ∧ new.condition = .drained then some .alert
  else if ¬ carriesTraffic old.condition ∧ carriesTraffic new.condition then some .state
  else if old.condition = .ramping ∧ new.condition = .lit then some .state
  else if carriesTraffic old.condition ∧ carriesTraffic new.condition ∧
      effectiveWeight rampSteps old ≠ effectiveWeight rampSteps new then some .state
  else none

/-- The event that a change of a port raises, by the table of R32. -/
def portRaise (p : PortNo) (old new : Port) : Option Raise :=
  if carriesTraffic old.condition ∧ new.condition = .dark then some (raiseAbout .uplinkDark p.val)
  else if old.condition ≠ .degraded ∧ new.condition = .degraded then some (raiseAbout .uplinkDegraded p.val)
  else if old.condition ≠ .lit ∧ old.condition ≠ .off ∧ old.condition ≠ .dark ∧ new.condition = .lit then
    some (raiseAbout .uplinkRestored p.val)
  else none

/-- A port outside DEGRADED has a clean count of 0 (R35, R47). -/
def graderAfter (port : Port) (g : Grader) : Grader :=
  if port.condition = .degraded then g else { g with clean := 0 }

/-- The port monitors take new values in one event: the candidate entries follow (R30), notices are demanded (R31),
events are raised (R32), with `others` raised at the same event, and the engine searches (R137). -/
def movePorts (ports : Vector Port 8) (others : List Raise) (s : State) : State :=
  search
    (raiseEvents (others ++ (List.finRange 8).filterMap fun p => portRaise p s.ports[p] ports[p])
      (demands ((List.finRange 8).filterMap fun p => portDemand s.params.rampSteps.toNat s.ports[p] ports[p])
        { s with
          ports := ports
          graders := Vector.ofFn fun p => graderAfter ports[p] s.graders[p]
          table := changeRow s.control.number
            (Vector.ofFn fun p => ownCandidate s.params.rampSteps.toNat ports[p]) s.table }))

/-- One port monitor takes a new value (R30 to R32). -/
def movePort (p : PortNo) (port : Port) (s : State) : State := movePorts (s.ports.set p port) [] s

/-- A port out of HOLDING and RAMPING: both timers stopped, k at 0 (R22, R25, R26, R27). -/
def settledPort (condition : Condition) (p : Port) : Port :=
  { p with condition := condition, restore := .stopped, ramp := .stopped, step := 0 }

/-- Light loss at a port (R22 to R27): HOLDING, RAMPING, LIT and DEGRADED go to DARK. -/
def loseLight (p : Port) : Port :=
  match p.condition with
  | .holding => settledPort .dark p
  | .ramping => settledPort .dark p
  | .lit => settledPort .dark p
  | .degraded => settledPort .dark p
  | .off => p
  | .dark => p
  | .drained => p

/-- A port that enters RAMPING at k = 1, or LIT when R = 1 (R23, R29). -/
def beginService (params : Params) (p : Port) : Port :=
  if params.rampSteps.toNat ≤ 1 then settledPort .lit p
  else { settledPort .ramping p with step := 1, ramp := rampTime params }

/-! ### Peer entries (R91 to R101, R105) -/

/-- The eight candidate entries that follow a peer entry: the facts of its report while it is PRESENT, else NOT HEARD
with weight 0 and the group last held (R105). -/
def peerRow (p : Peer) (row : Vector Candidate 8) : Vector Candidate 8 :=
  match p.state, p.report with
  | .present, some facts =>
    Vector.ofFn fun q =>
      { row[q] with condition := some facts[q].condition, group := facts[q].group, weight := facts[q].weight }
  | _, _ => Vector.ofFn fun q => { row[q] with condition := none, weight := 0 }

/-- A peer entry takes a new value, and its candidate entries follow in the same event (R105, R106). -/
def changePeer (station : StationNo) (p : Peer) (s : State) : State :=
  { s with
    peers := s.peers.set station p
    table := changeRow station (peerRow p s.table.rows[station]) s.table }

/-- What a move of a peer entry raises (R100). -/
def peerRaises (station : StationNo) (old new : Peer) : List Raise :=
  if old.state = .present ∧ (new.state = .silent ∨ new.state = .absent) then [raiseAbout .peerLost station.val]
  else if old.state ≠ .mismatch ∧ new.state = .mismatch then [raiseAbout .peerMismatch station.val]
  else []

/-- A peer entry that becomes ABSENT (R97, R99). -/
def absentPeer (p : Peer) : Peer :=
  { p with state := .absent, silence := .stopped, report := none, source := none, divergence := 0 }

/-- A peer entry moves in one event: the entry and its candidate entries, the demands and the other raises that belong
to the event, the raise of R100, and the search (R106, R137). -/
def movePeer (station : StationNo) (p : Peer) (ds : List Demand) (others : List Raise) (s : State) : State :=
  search (raiseEvents (peerRaises station s.peers[station] p ++ others) (demands ds (changePeer station p s)))

/-! ### Map memory (R132 to R134, R180) -/

/-- The address of a stored word. -/
def mapAddress (g : Group) (bank : Bool) (b : Bucket) : Nat := (g.val * 2 + bank.toNat) * 2048 + b.val

namespace Memory

/-- The canonical form: addresses strictly rising, and no word equal to what an unlisted address reads as. -/
def wf : Memory → Bool
  | [] => true
  | (_, w) :: [] => w != emptyWord
  | (a, w) :: (a', w') :: rest => w != emptyWord && decide (a < a') && wf ((a', w') :: rest)

/-- The word at an address: the listed one, or EMPTY. -/
def read (address : Nat) : Memory → MapWord
  | [] => emptyWord
  | (a, w) :: rest => if a = address then w else read address rest

/-- Puts a word at the head of the cells above it, unless it is what an unlisted address reads as. -/
def put (address : Nat) (word : MapWord) (rest : Memory) : Memory :=
  if word = emptyWord then rest else (address, word) :: rest

/-- Writes a word, keeping the canonical form. -/
def write (address : Nat) (word : MapWord) : Memory → Memory
  | [] => put address word []
  | (a, w) :: rest =>
    if a < address then (a, w) :: write address word rest
    else if a = address then put address word rest
    else put address word ((a, w) :: rest)

end Memory

/-- The stored word of a bucket of a bank (R134). -/
def storedWord (g : Group) (bank : Bool) (b : Bucket) (m : MapMemory) : MapWord :=
  Memory.read (mapAddress g bank b) m.words

/-- Puts a word into the cell of a bucket of a bank (R133: what stands there may differ from what was written). -/
def storeWord (g : Group) (bank : Bool) (b : Bucket) (w : MapWord) (m : MapMemory) : MapMemory :=
  { m with words := Memory.write (mapAddress g bank b) w m.words }

/-! ### Demanded silence: entering QUIET (R11, R14, R71) -/

/-- The states in which a request to go quiet acts (R11). -/
def mayGoQuiet : StationState → Bool
  | .loading => false
  | .configFault => false
  | .joining => true
  | .operating => true
  | .quiet => false
  | .muted => false

/-- Entry to QUIET: the queue is emptied and the in-flight notice marked final, the settle timer stops, a LEAVE is
queued alone, and the engine searches (R11, R71, R137); with `restart` the restart-pending mark is set (R14). -/
def enterQuiet (restart : Bool) (s : State) : State :=
  search
    (demand .leave
      { s with
        control := { s.control with station := .quiet, settle := .stopped, restartPending := restart }
        bus := emptyQueue s.bus })

/-! ### The reset (R2, R14) -/

/-- The station number that the strap pins give, SN3 the most significant (R2). -/
def strapNumber (pins : Pins) : StationNo := ⟨pins.straps.toNat, pins.straps.isLt⟩

/-- The reset that ends a RESTART (R14): every block takes its power-on values, the straps are sampled, the loader
begins. The lookup port keeps its requests and reply outputs, and the head's entry read is taken again in LOADING
(R163); an open inspection transaction goes on (R166). -/
def restartReset (s : State) : State :=
  { s with
    control := Control.reset (strapNumber s.pins)
    loader := Loader.reset
    params := Params.reset
    ports := Vector.replicate 8 Port.reset
    cadenceTimer := .stopped
    graders := Vector.replicate 8 Grader.reset
    errorTimer := .stopped
    bus := Bus.reset
    notices := Notices.reset
    counters := Vector.replicate 21 0
    peers := peersReset (strapNumber s.pins)
    table := CandidateTable.reset (strapNumber s.pins)
    engine := Engine.reset
    map := MapMemory.reset
    lookup := { s.lookup with service := if s.lookup.fifo.isEmpty then none else some .notReady }
    events := EventUnit.reset }

/-- Power-on: as the reset, and the lookup port and the inspection port take their power-on values too (R2, R150, R164,
R181). -/
def powerOnReset (s : State) : State :=
  { restartReset s with lookup := LookupPort.reset, spi := .waiting }

/-- A clash (R13): what station control does when the notice unit reports one. -/
def clash (s : State) : State :=
  match s.control.station with
  | .joining =>
    search
      (raiseEvents [raiseAbout .stationClash s.control.number.val]
        (markAllDirty
          { s with control := { s.control with station := .muted, settle := .stopped }, bus := cutQueue s.bus }))
  | .operating =>
    search
      (raiseEvents [raiseAbout .stationClash s.control.number.val]
        { s with control := { s.control with station := .muted }, bus := cutQueue s.bus })
  | .quiet =>
    if s.control.restartPending then restartReset s
    else
      search
        (raiseEvents [raiseAbout .stationClash s.control.number.val]
          { s with control := { s.control with station := .muted }, bus := cutQueue s.bus })
  | .muted => raiseEvents [raiseAbout .stationClash s.control.number.val] s
  | .loading => s
  | .configFault => s

end Sys2Proof.Machine
end

