-- ==== Sys2Proof/Machine/Clock.lean ====
section
/-! DEFINITION. What one bit cell of 100 ns does to a station that no command reaches: the timers run on, the idle count
rises, and the loader goes on with its read attempt on the I2C bus (log entries 1, 2 and 22). -/

namespace Sys2Proof.Machine

/-- A timer after one bit cell; its expiry is told by its own command. -/
def tickTimer : Timer → Timer
  | .stopped => .stopped
  | .running left => .running (left - 1)

/-- A port monitor after one bit cell. -/
def tickPort (p : Port) : Port := { p with restore := tickTimer p.restore, ramp := tickTimer p.ramp }

/-- A peer entry after one bit cell. -/
def tickPeer (p : Peer) : Peer := { p with silence := tickTimer p.silence }

/-- The idle count after some whole cells: it rises while the line is IDLE and holds at 255 (R61). -/
def idleAfter (b : Bus) (cells : Nat) : Nat :=
  if b.line = .idle then min Config.idleCountLimit (b.idleCount + cells) else b.idleCount

/-- One bit cell of 100 ns passes. -/
def tick (s : State) : State :=
  { s with
    control := { s.control with settle := tickTimer s.control.settle }
    loader := { tickBus s.pins.sclHeld s.loader with
      retry := tickTimer s.loader.retry, deadline := tickTimer s.loader.deadline }
    ports := Vector.ofFn fun p => tickPort s.ports[p]
    cadenceTimer := tickTimer s.cadenceTimer
    errorTimer := tickTimer s.errorTimer
    bus := { s.bus with idleCount := idleAfter s.bus 1 }
    notices := { s.notices with announce := tickTimer s.notices.announce, holdoff := tickTimer s.notices.holdoff }
    peers := Vector.ofFn fun i => tickPeer s.peers[i] }

end Sys2Proof.Machine
end

