-- ==== Sys2Proof/Machine/Notices.lean ====
section
/-! DEFINITION. The notice unit and what it hands the peer table (chapters 5 and 6): BAD_FRAME_RECEIVED, JOIN_RECEIVED,
STATE_RECEIVED, ALERT_RECEIVED, SOLICIT_RECEIVED, LEAVE_RECEIVED, ANNOUNCE_TIMER_EXPIRY and SOLICIT_HOLDOFF_EXPIRY. -/

namespace Sys2Proof.Machine

/-- Whether the sender of a frame is seated (R81). -/
def senderSeated (s : State) (sender : StationNo) : Bool := !s.params.presenceInUse || s.pins.presence[sender]

/-- (sequence − last sequence) mod 256 is between 1 and 127 (R82). -/
def follows (sequence last : Byte) : Bool :=
  decide (1 ≤ (sequence - last).toNat) && decide ((sequence - last).toNat ≤ 127)

/-- Whether a notice is accepted for its sequence (R82). -/
def sequenceAccepted (n : Notice) (p : Peer) : Bool :=
  n.kind == .join ||
  match p.state with
  | .present => follows n.sequence p.lastSequence
  | .mismatch => follows n.sequence p.lastSequence
  | .absent => true
  | .silent => true
  | .localEntry => true

/-- The received counter of a kind (R73, R168). -/
def receivedCounter : NoticeKind → Counter
  | .join => .receivedJoin
  | .state => .receivedState
  | .alert => .receivedAlert
  | .solicit => .receivedSolicit
  | .leave => .receivedLeave

/-- A stale notice: both stale counts rise (R82). -/
def staleNotice (n : Notice) (s : State) : State :=
  bump .staleNotices
    { s with
      peers := s.peers.set n.sender
        { s.peers[n.sender] with stale := saturatingHalf s.peers[n.sender].stale } }

/-- What acceptance records in the sender's entry (R82). -/
def acceptedPeer (n : Notice) (p : Peer) : Peer :=
  { p with lastSequence := n.sequence, accepted := saturatingHalf p.accepted }

/-- The parameters that a JOIN carries are equal to the own (R94, R177). -/
def joinEqual (n : Notice) (params : Params) : Bool :=
  joinBucketCode n.body == params.bucketCode && joinSeed n.body == params.seed &&
    joinAnnounce n.body == params.announce

/-- The entry that an accepted JOIN leaves (R94). -/
def joinedPeer (n : Notice) (params : Params) (p : Peer) : Peer :=
  { acceptedPeer n p with
    state := if joinEqual n params then .present else .mismatch
    silence := silenceTime params
    lastChecksum := some (bodyChecksum n.kind n.body)
    source := if joinEqual n params then none else some .byJoin
    report := if joinEqual n params then some (bodyFacts n.kind n.body) else p.report
    lastDigest := some (bodyDigest n.kind n.body)
    divergence := 0 }

/-- Whether a report installs its facts: the checksum matches, and the entry is not MISMATCH BY JOIN (R95). -/
def reportInstalls (n : Notice) (params : Params) (p : Peer) : Bool :=
  bodyChecksum n.kind n.body == params.checksum && !(p.state == .mismatch && p.source == some .byJoin)

/-- The entry that an accepted STATE or ALERT leaves, but for the divergence comparison (R95). -/
def reportedPeer (n : Notice) (params : Params) (p : Peer) : Peer :=
  { acceptedPeer n p with
    state := if reportInstalls n params p then .present else .mismatch
    silence := silenceTime params
    lastChecksum := some (bodyChecksum n.kind n.body)
    source :=
      if reportInstalls n params p then none
      else if p.state = .mismatch ∧ p.source = some .byJoin then some .byJoin else some .byChecksum
    report := if reportInstalls n params p then some (bodyFacts n.kind n.body) else p.report
    lastDigest := some (bodyDigest n.kind n.body)
    divergence := if reportInstalls n params p = false ∧ p.state = .present then 0 else p.divergence }

/-- The divergence count after the comparison, before it is set back at 3 (R89). -/
def comparedCount (own carried : Half) (count : Nat) : Nat := if own = carried then 0 else count + 1

/-- The own view digest as it stands after a report has been installed (R89). -/
def digestAfter (n : Notice) (p : Peer) (s : State) : Half :=
  (changeRow n.sender (peerRow p s.table.rows[n.sender]) s.table).digest

/-- The divergence count that an accepted STATE or ALERT compares to (R89). -/
def reportCount (n : Notice) (s : State) : Nat :=
  comparedCount (digestAfter n (reportedPeer n s.params s.peers[n.sender]) s) (bodyDigest n.kind n.body)
    s.peers[n.sender].divergence

/-- An accepted JOIN (R84, R94). -/
def joinAccepted (n : Notice) (s : State) : State :=
  movePeer n.sender (joinedPeer n s.params s.peers[n.sender])
    (if s.control.station = .operating then [.state] else []) [] s

/-- An accepted STATE or ALERT (R85, R86, R89, R90, R95). -/
def reportAccepted (n : Notice) (s : State) : State :=
  if reportInstalls n s.params s.peers[n.sender] then
    if reportCount n s < Config.divergenceLimit then
      movePeer n.sender
        { reportedPeer n s.params s.peers[n.sender] with divergence := reportCount n s } [] [] s
    else
      movePeer n.sender { reportedPeer n s.params s.peers[n.sender] with divergence := 0 }
        (if isRunning s.notices.holdoff then [] else [.solicit]) [raiseAbout .viewDivergence n.sender.val] s
  else movePeer n.sender (reportedPeer n s.params s.peers[n.sender]) [] [] s

/-- The entry that an accepted SOLICIT leaves (R96). -/
def solicitedPeer (n : Notice) (params : Params) (p : Peer) : Peer :=
  { acceptedPeer n p with
    lastDigest := some (bodyDigest n.kind n.body)
    silence := if p.state = .present ∨ p.state = .mismatch then silenceTime params else p.silence }

/-- An accepted SOLICIT (R87, R96): no candidate entry changes. -/
def solicitAccepted (n : Notice) (s : State) : State :=
  demands (if s.peers[n.sender].state = .present then [.state] else [])
    { s with peers := s.peers.set n.sender (solicitedPeer n s.params s.peers[n.sender]) }

/-- An accepted LEAVE (R88, R97). For an entry already ABSENT, R97 changes nothing but the last sequence, while R82
raises the accepted count at every acceptance: the model raises it (DESIGN CHOICE, log entry 29). -/
def leaveAccepted (n : Notice) (s : State) : State :=
  movePeer n.sender (absentPeer (acceptedPeer n s.peers[n.sender])) [] [] s

/-- An accepted notice is counted and handed to the peer table (R82). -/
def acceptNotice (n : Notice) (s : State) : State :=
  bump (receivedCounter n.kind)
    (match n.kind with
     | .join => joinAccepted n s
     | .state => reportAccepted n s
     | .alert => reportAccepted n s
     | .solicit => solicitAccepted n s
     | .leave => leaveAccepted n s)

/-- A COMPLETE frame at the notice unit: the checks of R78, in order, after the first. -/
def checkNotice (n : Notice) (s : State) : State :=
  if crcAgrees n = false then bump .crcFailures s
  else if n.sender = s.control.number then clash s
  else if senderSeated s n.sender = false then bump .unseatedNotices s
  else if sequenceAccepted n s.peers[n.sender] = false then staleNotice n s
  else acceptNotice n s

/-- A frame that the frame receiver hands on (R59, R78). -/
def handOn (h : Handed) (s : State) : State :=
  match h with
  | .codeViolation => bump .codeViolations s
  | .truncated => bump .truncations s
  | .complete bytes =>
    match noticeOfBytes bytes with
    | some n => checkNotice n s
    | none => s

/-- The frame receiver once it has handed a frame on (R58). -/
def spentReceiver : Receiver := { Receiver.reset with phase := .spent }

/-- A frame ends at the receiver: its cells have passed the clock recovery (R55), and the receiver enters SPENT (R58).
-/
def spendReceiver (times : List (Option Int)) (s : State) : State :=
  { s with bus := { timeCells times s.bus with receiver := spentReceiver } }

/-- A frame that is a clash: its CRC agrees, and its sender is the own station (R80). -/
def isClash (n : Notice) (s : State) : Bool := crcAgrees n && n.sender == s.control.number

/-- A COMPLETE frame told during an attempt. The receiver hands none on there (R60), so nothing changes; but R13 and R71
have a clash reported with a notice in flight cut it, and so the model does, the cells told being those of the attempt
so far and the receiver going on with the frame it is in (R60; DESIGN CHOICE, log entry 5). -/
def frameDuringAttempt (f : InFlight) (n : Notice) (times : List (Option Int)) (s : State) : State :=
  if isClash n s then clash { s with bus := hearEcho f times s.bus } else s

/-- A COMPLETE frame arrives while receive is on (R1, R60, R73, R78; log entry 5). -/
def frameReceived (n : Notice) (times : List (Option Int)) (s : State) : State :=
  if receiveOn s.control.station then
    match s.bus.inFlight with
    | none => checkNotice n (spendReceiver times s)
    | some f => frameDuringAttempt f n times s
  else s

/-- A frame that R78 discards, as the frame receiver hands it on. A COMPLETE one whose CRC agrees is taken as a frame of
its kind (log entry 23). -/
def badFrameHanded : BadFrame → Handed
  | .codeViolation => .codeViolation
  | .truncated => .truncated
  | .complete covered crc => .complete (covered ++ [highByte crc, lowByte crc])

/-- BAD_FRAME_RECEIVED (R60, R78, R79): the frame is counted and discarded; during an attempt none is handed on. A
TRUNCATED one leaves the receiver SPENT and the recovery and the line as they were, which LINE_IDLE tells (DESIGN
CHOICE, log entries 5 and 28). -/
def execBadFrameReceived (frame : Heard BadFrame) (s : State) : Host.Outcome State Fault Refusal :=
  if receiveOn s.control.station && s.bus.inFlight.isNone then
    .next (handOn (badFrameHanded frame.value) (spendReceiver frame.times s))
  else .next s

/-- JOIN_RECEIVED (R84, R94). -/
def execJoinReceived (sender : StationNo) (sequence : Byte) (body : Vector Byte 17) (crc : Heard Half) (s : State) :
    Host.Outcome State Fault Refusal :=
  .next (frameReceived
    { kind := .join, sender := sender, sequence := sequence, body := body.toList, crc := crc.value } crc.times s)

/-- STATE_RECEIVED (R85, R95). -/
def execStateReceived (sender : StationNo) (sequence : Byte) (body : Vector Byte 13) (crc : Heard Half) (s : State) :
    Host.Outcome State Fault Refusal :=
  .next (frameReceived
    { kind := .state, sender := sender, sequence := sequence, body := body.toList, crc := crc.value } crc.times s)

/-- ALERT_RECEIVED (R86, R95). -/
def execAlertReceived (sender : StationNo) (sequence : Byte) (body : Vector Byte 13) (crc : Heard Half) (s : State) :
    Host.Outcome State Fault Refusal :=
  .next (frameReceived
    { kind := .alert, sender := sender, sequence := sequence, body := body.toList, crc := crc.value } crc.times s)

/-- SOLICIT_RECEIVED (R87, R96). -/
def execSolicitReceived (sender : StationNo) (sequence : Byte) (body : Vector Byte 2) (crc : Heard Half) (s : State) :
    Host.Outcome State Fault Refusal :=
  .next (frameReceived
    { kind := .solicit, sender := sender, sequence := sequence, body := body.toList, crc := crc.value } crc.times s)

/-- LEAVE_RECEIVED (R88, R97). -/
def execLeaveReceived (sender : StationNo) (sequence : Byte) (crc : Heard Half) (s : State) :
    Host.Outcome State Fault Refusal :=
  .next (frameReceived
    { kind := .leave, sender := sender, sequence := sequence, body := [], crc := crc.value } crc.times s)

/-- Whether a report is pending: a REPORT entry is queued, or a STATE or ALERT is in flight (R76). -/
def reportPending (b : Bus) : Bool :=
  b.queue.any (fun e => e.kind == .report) ||
  match b.inFlight with
  | some f => f.entry.kind == .report
  | none => false

/-- ANNOUNCE_TIMER_EXPIRY (R76): the timer restarts, and a STATE is demanded when no report is pending. -/
def execAnnounceTimerExpiry (s : State) : Host.Outcome State Fault Refusal :=
  if isRunning s.notices.announce then
    .next (demands (if reportPending s.bus then [] else [.state])
      { s with notices := { s.notices with announce := announceTime s.params } })
  else .next s

/-- SOLICIT_HOLDOFF_EXPIRY (R77): the timer stops. -/
def execSolicitHoldoffExpiry (s : State) : Host.Outcome State Fault Refusal :=
  .next { s with notices := { s.notices with holdoff := .stopped } }

end Sys2Proof.Machine
end

