-- ==== Sys2Proof/Machine/Bus.lean ====
section
/-! DEFINITION. The failover bus (chapter 4) and the filling of notices (chapter 5): LINE_BUSY, LINE_IDLE,
ATTEMPT_START, COLLISION and ATTEMPT_COMPLETE. -/

namespace Sys2Proof.Machine

/-- A backoff owed after an event that ends the wait: cleared when its wait had begun (R62). -/
def afterWait (owed : Option Backoff) : Option Backoff := owed.filter fun o => !o.waiting

/-- LINE_BUSY (R54, R57, R61, R62): the first transition in SEEK. -/
def execLineBusy (s : State) : Host.Outcome State Fault Refusal :=
  if receiveOn s.control.station = true ∧ s.bus.recovery = .seek then
    .next { s with
      bus := { s.bus with
        recovery := .track
        boundary := Config.cellPicoseconds
        missed := 0
        receiver := Receiver.reset
        line := .busy
        backoff := afterWait s.bus.backoff } }
  else .next s

/-- The recovery loses the cell timing: SEEK, the line IDLE with its idle count from 0, and a backoff owed begins its
wait (R56, R61, R62). A frame in FRAME ends, handed on TRUNCATED (R59), and the receiver is SPENT from there to the
next entry to TRACK, where R58 has it in HUNT: the phase between the two is the model's (DESIGN CHOICE, log entry 28).
R53 gives the cell timing a value in TRACK alone: in SEEK the model keeps the last expected boundary, which nothing
reads there (DESIGN CHOICE, log entry 33). -/
def lineGoesIdle (b : Bus) : Bus :=
  { b with
    recovery := .seek
    missed := 0
    receiver := if b.receiver.phase = .frame then spentReceiver else b.receiver
    line := .idle
    idleCount := 0
    backoff := b.backoff.map fun owed => { owed with waiting := true } }

/-- The recovery and the receiver take a cell that leaves the recovery in TRACK (R55 to R58). -/
def trackCell (b : Bus) (c : LineCell) : Bus :=
  { timeCell b c.boundary with receiver := (receiveCell b.receiver (cellValue c)).1 }

/-- Whether a cell is the second missed one in a row (R56). -/
def secondMissed (b : Bus) (c : LineCell) : Bool := (cellValue c).isNone && decide (1 ≤ b.missed)

/-- A cell with no transition at all. -/
def missedCell : LineCell := { boundary := none, middle := false }

/-! ### Starting an attempt (R62, R63, R74, R75) -/

/-- The kind that a queue entry takes on the line (R63). -/
def kindOnLine (e : QueueEntry) : NoticeKind :=
  match e.kind with
  | .join => .join
  | .report => if e.urgent then .alert else .state
  | .solicit => .solicit
  | .leave => .leave

/-- The sequence that an attempt takes: 0 for a JOIN, else the counter as it stands (R74). -/
def assignedSequence (kind : NoticeKind) (counter : Byte) : Byte := if kind = .join then 0 else counter

/-- The eight report bytes as the light monitor supplies them (R33, R177). -/
def reportBytes (s : State) : List Byte :=
  (List.finRange 8).map fun p =>
    reportByte s.ports[p].condition (effectiveWeight s.params.rampSteps.toNat s.ports[p])

/-- The two groups bytes (R33, R177). -/
def groupBytes (s : State) : List Byte := halfBytes (groupsField (Vector.ofFn fun p => s.ports[p].group))

/-- The body of a STATE or ALERT (R75, R177). -/
def reportBody (s : State) : List Byte :=
  [s.params.checksum] ++ reportBytes s ++ groupBytes s ++ halfBytes s.table.digest

/-- The body of a notice, filled from the state as it stands (R75, R177). -/
def filledBody (kind : NoticeKind) (s : State) : List Byte :=
  match kind with
  | .join =>
    [s.params.bucketCode.setWidth 8] ++ halfBytes s.params.seed ++ [s.params.announce] ++ reportBody s
  | .state => reportBody s
  | .alert => reportBody s
  | .solicit => halfBytes s.table.digest
  | .leave => []

/-- The notice bytes of an attempt (R63, R74, R75). -/
def filledNotice (kind : NoticeKind) (s : State) : List Byte :=
  noticeBytes (coveredBytes kind s.control.number (assignedSequence kind s.notices.sequence) (filledBody kind s))

/-- The head leaves the queue and goes in flight, and the line coder begins (R52, R62, R63, R70, R74). -/
def beginAttempt (place : Nat) (e : QueueEntry) (s : State) : State :=
  { s with
    notices := { s.notices with sequence := assignedSequence (kindOnLine e) s.notices.sequence + 1 }
    bus := { s.bus with
      queue := s.bus.queue.eraseIdx place
      inFlight := some { entry := e, older := place, final := false, frame := filledNotice (kindOnLine e) s }
      driver := .driven (codedFrame (filledNotice (kindOnLine e) s))
      backoff := afterWait s.bus.backoff } }

/-- Whether the head may start (R62): its kind is allowed, no attempt is on, the line is IDLE, and the idle count has
reached the required wait. -/
def mayStart (e : QueueEntry) (s : State) : Bool :=
  transmitAllowed s.control.station e.kind && s.bus.inFlight.isNone && s.bus.line == .idle &&
    decide (requiredWait s.bus e ≤ s.bus.idleCount)

/-- Idle cells pass (R61). -/
def passIdle (cells : Nat) (s : State) : State := { s with bus := { s.bus with idleCount := idleAfter s.bus cells } }

/-- The attempt of the head, where it may start (R62, R70). -/
def startHead (s : State) : State :=
  match s.bus.queue[headPlace s.bus.queue]? with
  | some e => if mayStart e s then beginAttempt (headPlace s.bus.queue) e s else s
  | none => s

/-- ATTEMPT_START (R62, R63): the idle cells that no step has counted pass, and the head starts (log entry 3). -/
def execAttemptStart (idleCells : Nat) (s : State) : Host.Outcome State Fault Refusal :=
  .next (startHead (passIdle idleCells s))

/-! ### The end of an attempt (R64 to R67, R72) -/

/-- The backoff that an abort sets: ((station number + attempt count) mod 16) + 1 slots, not yet waiting (R65). -/
def abortBackoff (number : StationNo) (attempts : Nat) : Backoff :=
  { slots := (number.val + attempts) % 16 + 1, waiting := false }

/-- The aborted entry with its attempt count (R65), and the urgency of an entry of its kind that was queued during the
attempt (R72). -/
def returnedEntry (f : InFlight) (queue : List QueueEntry) : QueueEntry :=
  { f.entry with
    attempts := f.entry.attempts + 1
    urgent := f.entry.urgent || queue.any fun e => e.kind == f.entry.kind && e.urgent }

/-- An aborted notice returns to the queue with its age, merging with an entry of its kind (R72). -/
def returnToQueue (f : InFlight) (queue : List QueueEntry) : List QueueEntry :=
  if queue.any fun e => e.kind == .leave then queue
  else (queue.filter fun e => e.kind != f.entry.kind).insertIdx
    (min f.older (queue.filter fun e => e.kind != f.entry.kind).length) (returnedEntry f queue)

/-- The recovery and the receiver after the cells of an attempt up to the one that collided (R55, R60, R64; log entry
19). -/
def heardAttempt (f : InFlight) (agreed : List Int) (heard : LineCell) (b : Bus) : Bus :=
  if b.recovery = .track then trackCell (hearEcho f (agreed.map some) b) heard else b

/-- The line is released, the attempt has ended, the collision is counted and the backoff set (R65, steps 1 to 3). -/
def abortAttempt (f : InFlight) (s : State) : State :=
  bump .collisionAborts
    { s with
      bus := { s.bus with
        driver := .released
        inFlight := none
        backoff := some (abortBackoff s.control.number (f.entry.attempts + 1)) } }

/-- A notice is given up (R66); for a LEAVE with the restart-pending mark set the reset follows (R14). That LEAVE may
carry the final mark: R14 has a final-marked LEAVE that aborts dropped, with the queued LEAVE to follow, and R65 and
R66 have its eighth abort a give-up, which is reported; the model resets (DESIGN CHOICE, log entry 26). -/
def giveUp (f : InFlight) (s : State) : State :=
  if f.entry.kind = .leave ∧ s.control.restartPending = true then
    restartReset (raiseEvents [raiseOf .busGiveUp] (bump .giveUps s))
  else raiseEvents [raiseOf .busGiveUp] (bump .giveUps s)

/-- The aborted notice is given up, dropped or returned (R65, step 4). -/
def disposeOf (f : InFlight) (s : State) : State :=
  if Config.attemptLimit ≤ f.entry.attempts + 1 then giveUp f s
  else if f.final then s
  else { s with bus := { s.bus with queue := returnToQueue f s.bus.queue } }

/-- A frame that the receiver hands on reaches the notice unit (R59). -/
def handOver (h : Option Handed) (s : State) : State :=
  match h with
  | none => s
  | some handed => handOn handed s

/-- The frame receiver goes on with the frame on the line as a received one: where the collided cell was its last, it is
handed on (R60), unless a reset has turned receive off (R1, R14). -/
def handAfterAbort (h : Option Handed) (s : State) : State :=
  if receiveOn s.control.station then handOver h s else s

/-- What the receiver hands on at the collided cell (R60). -/
def collidedFrame (f : InFlight) (place : Nat) (heard : LineCell) (b : Bus) : Option Handed :=
  if b.recovery = .track then
    (receiveCell (agreedReceiver f place b) (cellValue heard)).2
  else none

/-- A collision ends the attempt by an abort, after the cells that agreed: what was heard passes the recovery and the
receiver, the notice is disposed of, and a frame that ends with the collided cell is handed on (R60, R64, R65). -/
def collide (f : InFlight) (agreed : List Int) (heard : LineCell) (s : State) : State :=
  handAfterAbort (collidedFrame f agreed.length heard s.bus)
    (disposeOf f (abortAttempt f { s with bus := heardAttempt f agreed heard s.bus }))

/-- COLLISION (R64, R65): after the cells that agreed, a cell of the attempt differs, is missed, or ends in SEEK. -/
def execCollision (agreed : List Int) (heard : LineCell) (s : State) : Host.Outcome State Fault Refusal :=
  match s.bus.inFlight with
  | none => .next s
  | some f =>
    match (sentCells f)[agreed.length]? with
    | none => .next s
    | some sent => if isCollision s.bus.recovery sent heard then .next (collide f agreed heard s) else .next s

/-- The sent counter of a kind (R67, R168). -/
def sentCounter : NoticeKind → Counter
  | .join => .sentJoin
  | .state => .sentState
  | .alert => .sentAlert
  | .solicit => .sentSolicit
  | .leave => .sentLeave

/-- The notice unit's timers after a completion: the announce timer restarts after a report, the holdoff starts after a
SOLICIT (R67, R76, R77). -/
def timersAfter (e : QueueEntry) (params : Params) (n : Notices) : Notices :=
  match e.kind with
  | .report => { n with announce := announceTime params }
  | .solicit => { n with holdoff := holdoffTime params }
  | .join => n
  | .leave => n

/-- The offsets of the boundary transitions of the cells of an attempt that completes, none of which was missed (R55,
R64, R67): free values, as no operand tells them (log entry 19). -/
def echoTimes (f : InFlight) (freeCount : Nat) : List (Option Int) :=
  (List.range (sentCells f).length).map fun place => some (Config.echoOffset (freeCount + place))

/-- The attempt has completed, its cells heard: the line is released, the notice is sent and counted, and the echo's
frame has ended with it (R60, R67). -/
def completeAttempt (f : InFlight) (s : State) : State :=
  bump (sentCounter (kindOnLine f.entry))
    { s with
      notices := timersAfter f.entry s.params s.notices
      bus := { s.bus with driver := .released, inFlight := none, receiver := spentReceiver } }

/-- The end of an attempt that completes: a LEAVE with the restart-pending mark set brings the reset (R14, R67). -/
def endAttempt (f : InFlight) (s : State) : State :=
  if f.entry.kind = .leave ∧ s.control.restartPending = true then restartReset (completeAttempt f s)
  else completeAttempt f s

/-- The cells of an attempt that completes pass the clock recovery, at offsets that no operand tells (R55; log entry
19). -/
def hearAttempt (f : InFlight) (s : State) : State :=
  { s with
    freeCount := s.freeCount + (sentCells f).length
    bus := timeCells (echoTimes f s.freeCount) s.bus }

/-- ATTEMPT_COMPLETE (R64, R67): the last CRC cell ends. A sent cell at whose end the recovery is still in SEEK is a
collision, the first as every other, so an attempt that ends in SEEK aborts. -/
def execAttemptComplete (s : State) : Host.Outcome State Fault Refusal :=
  match s.bus.inFlight with
  | none => .next s
  | some f =>
    if s.bus.recovery = .seek then .next (collide f [] missedCell s) else .next (endAttempt f (hearAttempt f s))

/-! ### Cells that only LINE_IDLE tells (R55 to R60, R64) -/

/-- A cell of an attempt, at its place in it, while the recovery is in TRACK: echo compare aborts the attempt at a
collision and completes it at the last CRC cell; the frame receiver hands nothing on meanwhile (R60, R64, R67). -/
def echoCell (f : InFlight) (place : Nat) (c : LineCell) (s : State) : State :=
  match (sentCells f)[place]? with
  | none => s
  | some sent =>
    if isCollision s.bus.recovery sent c then collide f [] c s
    else if place + 1 = (sentCells f).length then endAttempt f { s with bus := trackCell s.bus c }
    else { s with bus := trackCell s.bus c }

/-- A cell of a received frame, or of none, while the recovery is in TRACK; the second missed one in a row loses it
(R55, R56, R58, R59). -/
def receivedCell (c : LineCell) (s : State) : State :=
  if secondMissed s.bus c then handOver (lineIdleHands s.bus.receiver) { s with bus := lineGoesIdle s.bus }
  else handOver (receiveCell s.bus.receiver (cellValue c)).2 { s with bus := trackCell s.bus c }

/-- One cell, at its place among those told: in SEEK none is decoded (R54). -/
def hearCell (place : Nat) (c : LineCell) (s : State) : State :=
  if s.bus.recovery = .track then
    match s.bus.inFlight with
    | some f => echoCell f place c s
    | none => receivedCell c s
  else s

/-- Cells in their order, from a place on. -/
def hearCells (place : Nat) (cells : List LineCell) (s : State) : State :=
  match cells with
  | [] => s
  | c :: rest => hearCells (place + 1) rest (hearCell place c s)

/-- LINE_IDLE (R56, R61): the cells of this busy time that no other command has told, then missed cells until the line
is IDLE. In an attempt they are its cells from the first of the preamble on, and go to echo compare (log entry 4). -/
def execLineIdle (cells : List LineCell) (s : State) : Host.Outcome State Fault Refusal :=
  if receiveOn s.control.station then .next (hearCells 0 (cells ++ [missedCell, missedCell]) s) else .next s

end Sys2Proof.Machine
end

