-- ==== Sys2Proof/Machine/Engine.lean ====
section
/-! DEFINITION. The recompute engine's work on a bucket (chapter 8): BUCKET_DONE. -/

namespace Sys2Proof.Machine

/-- The word that the score unit's entry gives a bucket (R114, R115, R140). -/
def bucketWord (params : Params) (e : Engine) (g : Group) (b : Bucket) : MapWord :=
  mapWord (unitPrimary (scoreRest params.seed g b e.snapshot e.score))
    (unitBackup (scoreRest params.seed g b e.snapshot e.score))

/-- The generation after a flip: up by 1, and from 65,535 to 1 (R135). -/
def nextGeneration (n : Half) : Half := if n = 0xFFFF then 1 else n + 1

/-- The engine flips a group, becomes IDLE and searches (R144). -/
def flip (g : Group) (s : State) : State :=
  search
    (bump .flips
      { s with
        map := { s.map with
          active := s.map.active.set g (!s.map.active[g])
          generation := s.map.generation.set g (nextGeneration s.map.generation[g]) }
        engine := { s.engine with
          run := .idle, score := ScoreUnit.reset, pointer := g, retried := s.engine.retried.set g false } })

/-- A failed write where the retry count is 1: MAP FAULT (R146). -/
def mapFault (g : Group) (s : State) : State :=
  search
    (raiseEvents [raiseAbout .mapFault g.val]
      { s with
        engine := { s.engine with
          run := .idle, score := ScoreUnit.reset, pointer := g, fault := s.engine.fault.set g true } })

/-- A failed write where the retry count is 0: the retry starts at once, or in JOINING the group is flagged (R145). -/
def retry (g : Group) (s : State) : State :=
  if engineMayStart s.control.station then
    startRecompute g { s with engine := { s.engine with retried := s.engine.retried.set g true } }
  else
    markDirty g
      { s with
        engine := { s.engine with
          run := .idle, score := ScoreUnit.reset, retried := s.engine.retried.set g true } }

/-- A failed write (R140, R145, R146). -/
def writeFailed (g : Group) (s : State) : State := if s.engine.retried[g] then mapFault g s else retry g s

/-- A bucket is done: the next one, or the flip after the last (R140, R144). -/
def writeHeld (g : Group) (b : Bucket) (s : State) : State :=
  if h : b.val + 1 < bucketCount s.params.bucketCode ∧ b.val + 1 < 2048 then
    { s with engine := { s.engine with run := .running g ⟨b.val + 1, h.2⟩, score := ScoreUnit.reset } }
  else flip g s

/-- The engine writes the bucket's word into the shadow bank; the bits of `stuck` do not hold it (R139, R140). -/
def writeBucket (g : Group) (b : Bucket) (stuck : MapWord) (s : State) : State :=
  { s with
    map := storeWord g (!s.map.active[g]) b (bucketWord s.params s.engine g b ^^^ stuck) s.map }

/-- Whether the word read back is the word that was written (R140). -/
def readBackAgrees (g : Group) (b : Bucket) (stuck : MapWord) (s : State) : Bool :=
  storedWord g (!s.map.active[g]) b (writeBucket g b stuck s).map == bucketWord s.params s.engine g b

/-- BUCKET_DONE (R140): the bucket in progress is written and read back. -/
def execBucketDone (stuck : MapWord) (s : State) : Host.Outcome State Fault Refusal :=
  match s.engine.run with
  | .idle => .next s
  | .running g b =>
    if readBackAgrees g b stuck s then .next (writeHeld g b (writeBucket g b stuck s))
    else .next (writeFailed g (writeBucket g b stuck s))

end Sys2Proof.Machine
end

