-- ==== Sys2Proof/Machine/Grader.lean ====
section
/-! DEFINITION. The error grader (chapter 3): ERROR_PULSE and ERROR_WINDOW_EXPIRY. -/

namespace Sys2Proof.Machine

/-- The counter of an error kind (R35). -/
def errorCount (kind : ErrorKind) (g : Grader) : Byte :=
  match kind with
  | .code => g.code
  | .slip => g.slip
  | .frame => g.frame

/-- The action of an error kind (R35). -/
def actionOf (kind : ErrorKind) (params : Params) : Action :=
  match kind with
  | .code => params.codeAction
  | .slip => params.slipAction
  | .frame => params.frameAction

/-- A pulse crosses when it makes the counter equal to T (R40); a counter that stays at 255 does not. -/
def crosses (threshold count : Byte) : Bool := count != 0xFF && count + 1 == threshold

/-- A pulse at the grader: the counter of its kind, and the mark when it crosses (R37, R38, R41). -/
def countPulse (kind : ErrorKind) (threshold : Byte) (g : Grader) : Grader :=
  match kind with
  | .code => { g with code := saturatingByte g.code, codeMark := g.codeMark || crosses threshold g.code }
  | .slip => { g with slip := saturatingByte g.slip, slipMark := g.slipMark || crosses threshold g.slip }
  | .frame => { g with frame := saturatingByte g.frame, frameMark := g.frameMark || crosses threshold g.frame }

/-- What a crossing does to the port condition, by the table of R41 (R22 to R27, R42 to R44). -/
def crossPort (params : Params) (action : Action) (p : Port) : Port :=
  match action with
  | .report => p
  | .degrade =>
    match p.condition with
    | .holding => { p with restore := restoreTime params }
    | .ramping => settledPort .degraded p
    | .lit => settledPort .degraded p
    | .degraded => p
    | .off => p
    | .dark => p
    | .drained => p
  | .dark =>
    match p.condition with
    | .holding => { p with restore := restoreTime params }
    | .ramping => settledPort .dark p
    | .lit => settledPort .dark p
    | .degraded => settledPort .dark p
    | .off => p
    | .dark => p
    | .drained => p

/-- The clean count at a crossing: a serious one puts it to 0 (R42, R43, R44). -/
def crossedClean (action : Action) (clean : Nat) : Nat :=
  match action with
  | .report => clean
  | .degrade => 0
  | .dark => 0

/-- ERROR_PULSE (R37 to R44): the counter of the kind rises; a crossing on an enabled port raises ERROR REPORT and acts
on the port. The pulse inputs are ignored until the grader has started (R36). -/
def execErrorPulse (p : PortNo) (kind : ErrorKind) (s : State) : Host.Outcome State Fault Refusal :=
  if receiveOn s.control.station then
    if crosses s.params.threshold (errorCount kind s.graders[p]) ∧ s.ports[p].enabled then
      .next (movePorts (s.ports.set p (crossPort s.params (actionOf kind s.params) s.ports[p]))
        [raiseAbout .errorReport p.val]
        { s with
          graders := s.graders.set p
            { countPulse kind s.params.threshold s.graders[p] with
              clean := crossedClean (actionOf kind s.params) s.graders[p].clean } })
    else .next { s with graders := s.graders.set p (countPulse kind s.params.threshold s.graders[p]) }
  else .next s

/-- Whether a crossed mark spoils a window: it is set, and its kind's action is DEGRADE or DARK (R46). -/
def spoils (mark : Bool) (action : Action) : Bool := mark && action != .report

/-- A window is clean for a port when no mark of a serious kind is set (R46). -/
def windowClean (params : Params) (g : Grader) : Bool :=
  !spoils g.codeMark params.codeAction && !spoils g.slipMark params.slipAction &&
    !spoils g.frameMark params.frameAction

/-- Whether a port's window is judged at the expiry: the port is enabled and DEGRADED (R39, R46). -/
def isJudged (p : Port) : Bool := p.enabled && p.condition == .degraded

/-- Whether the expiry hands the port a recovery (R46, R47). -/
def recovers (params : Params) (p : Port) (g : Grader) : Bool :=
  isJudged p && windowClean params g && decide (params.cleanWindows.toNat ≤ g.clean + 1)

/-- The clean count after the expiry (R46). -/
def judgedClean (params : Params) (p : Port) (g : Grader) : Nat :=
  if isJudged p && windowClean params g && !recovers params p g then g.clean + 1 else 0

/-- A port's grader after the expiry: counters at 0, marks clear (R39). -/
def windowedGrader (params : Params) (p : Port) (g : Grader) : Grader :=
  { code := 0, slip := 0, frame := 0, codeMark := false, slipMark := false, frameMark := false,
    clean := judgedClean params p g }

/-- ERROR_WINDOW_EXPIRY (R39, R46, R47): DEGRADED ports are judged, every counter and mark is cleared, the timer
restarts, and the ports that complete Nc clean windows go to LIT. -/
def execErrorWindowExpiry (s : State) : Host.Outcome State Fault Refusal :=
  if isRunning s.errorTimer then
    .next (movePorts
      (Vector.ofFn fun p =>
        if recovers s.params s.ports[p] s.graders[p] then settledPort .lit s.ports[p] else s.ports[p])
      []
      { s with
        errorTimer := errorTime s.params
        graders := Vector.ofFn fun p => windowedGrader s.params s.ports[p] s.graders[p] })
  else .next s

end Sys2Proof.Machine
end

