-- ==== Sys2Proof/Machine/Inspection.lean ====
section
/-! DEFINITION. The inspection port (chapter 10): SPI_TRANSACTION_OPEN, SPI_TRANSACTION_END, UNKNOWN_COMMAND, the
reading commands and the steering commands. -/

namespace Sys2Proof.Machine

/-- SPI_TRANSACTION_OPEN (R164): a fall of CS_N opens a new transaction, whatever the previous one left. -/
def execSpiTransactionOpen (s : State) : Host.Outcome State Fault Refusal := .next { s with spi := .opened }

/-- SPI_TRANSACTION_END (R164): a rise of CS_N abandons a command not yet taken and discards the rest of a reply. -/
def execSpiTransactionEnd (s : State) : Host.Outcome State Fault Refusal := .next { s with spi := .waiting }

/-- The byte that the station clocks out: fill until the command is taken, then the status, the reply data, and fill
again (R164, R179). R179 gives the fill within a transaction alone. With no transaction open the model clocks out fill
too (DESIGN CHOICE, log entry 31): with CS_N high MISO is not driven (section 11.5), so this shows only where CS_N is
low over a power-on. -/
def misoByte (t : Transaction) (place : Nat) : Byte :=
  match t with
  | .waiting => fillByte
  | .opened => fillByte
  | .taken status data => (status :: data).getD place fillByte

/-! ### Taking a command (R164, R165) -/

/-- The checks of R165, in order: an argument out of range, a port that is OFF, a state that does not allow it. -/
def commandStatus (station : StationState) (badArgument portOff allowed : Bool) : CommandStatus :=
  if station = .loading then .busy
  else if badArgument then .badArgument
  else if portOff then .notConfigured
  else if allowed then .accepted
  else .wrongState

/-- A command is taken in an open transaction: its status and reply are captured, and an accepted one does what it
does. A command answered BUSY or REFUSED does nothing and has no reply data (R164, R165). With no open transaction no
byte reaches the port (log entry 12). -/
def takeCommand (status : CommandStatus) (data : List Byte) (effect : State → State) (s : State) : State :=
  if s.spi = .opened then
    if status = .accepted then effect { s with spi := .taken (statusByte .accepted) data }
    else { s with spi := .taken (statusByte status) [] }
  else s

/-- A reading command: it captures its reply and changes nothing that it reads (10.2). -/
def takeReading (badArgument : Bool) (data : List Byte) (s : State) : State :=
  takeCommand (commandStatus s.control.station badArgument false true) data id s

/-- The port that an argument byte names (R179). -/
def portOfByte (b : Byte) : PortNo := ⟨b.toNat % 8, Nat.mod_lt _ (by decide)⟩

/-- The station that an argument byte names (R179). -/
def stationOfByte (b : Byte) : StationNo := ⟨b.toNat % 16, Nat.mod_lt _ (by decide)⟩

/-- The uplink that an argument byte names (R179). -/
def uplinkOfByte (b : Byte) : UplinkId := ⟨b.toNat % 128, Nat.mod_lt _ (by decide)⟩

/-- The group that an argument byte names (R179). -/
def groupOfByte (b : Byte) : Group := ⟨b.toNat % 4, Nat.mod_lt _ (by decide)⟩

/-- The bucket that an argument pair names (R179). -/
def bucketOfHalf (h : Half) : Bucket := ⟨h.toNat % 2048, Nat.mod_lt _ (by decide)⟩

/-- UNKNOWN_COMMAND (R164, R165): refused with BAD ARGUMENT, or BUSY in LOADING. -/
def execUnknownCommand (_byte : Byte) (s : State) : Host.Outcome State Fault Refusal :=
  .next (takeReading true [] s)

/-! ### The reading commands (10.2, R179) -/

/-- How many peer entries are in a state (R113). -/
def peerCount (state : PeerState) (s : State) : Nat := s.peers.toList.countP fun p => p.state == state

/-- A number of at most 255 as a reply byte. -/
def numberByte (n : Nat) : Byte := BitVec.ofNat 8 n

/-- The dirty flags, bit g for group g (R179). -/
def dirtyByte (s : State) : Byte :=
  flagBit s.table.dirty[0] 0 ||| flagBit s.table.dirty[1] 1 ||| flagBit s.table.dirty[2] 2 |||
    flagBit s.table.dirty[3] 3

/-- The flags byte of STATUS (R179). -/
def stationFlags (s : State) : Byte :=
  flagBit s.control.clamp 0 ||| flagBit s.control.restartPending 1 ||| flagBit s.pins.attn 2 |||
    flagBit s.events.interrupt 3

/-- The engine byte of STATUS: bit 7 RUNNING, bits 1..0 the group in progress (R149, R179). -/
def engineByte (run : EngineRun) : Byte :=
  match run with
  | .idle => 0
  | .running g _ => 0x80 ||| numberByte g.val

/-- The bucket in progress (R149, R179). -/
def bucketInProgress (run : EngineRun) : Half :=
  match run with
  | .idle => 0
  | .running _ b => BitVec.ofNat 16 b.val

/-- A group's three bytes in STATUS (R149, R179). -/
def groupStatus (s : State) (g : Group) : List Byte :=
  (flagBit s.map.active[g] 0 ||| flagBit s.engine.retried[g] 1 ||| flagBit s.engine.fault[g] 2) ::
    halfBytes s.map.generation[g]

/-- The reply of STATUS, 30 bytes (R113, R149, R167, R179). R179 gives the bits that hold something: every other bit of
the flags, dirty, engine and group bytes and of the pending flags reads 0 (DESIGN CHOICE, log entry 34). -/
def statusReply (s : State) : List Byte :=
  [stationCode s.control.station, numberByte s.control.number.val, causeCode s.control.cause, stationFlags s] ++
    halfBytes s.table.digest ++
    [dirtyByte s, numberByte (peerCount .absent s), numberByte (peerCount .present s),
      numberByte (peerCount .silent s), numberByte (peerCount .mismatch s), engineByte s.engine.run] ++
    halfBytes (bucketInProgress s.engine.run) ++ [numberByte s.engine.pointer.val] ++
    (List.finRange 4).flatMap (groupStatus s) ++
    halfBytes (s.events.pending.setWidth 16) ++ [severityCode s.events.severity]

/-- STATUS (R167). -/
def execStatus (s : State) : Host.Outcome State Fault Refusal := .next (takeReading false (statusReply s) s)

/-- The port byte of READ UPLINK, coded as in the record with bit 6 at 0 (R178, R179). -/
def portByte (p : Port) : Byte := flagBit p.enabled 7 ||| (numberByte p.group.val <<< 4) ||| p.weight.setWidth 8

/-- The actions byte, as in the record (R178, R179). -/
def actionsByte (params : Params) : Byte :=
  ((actionCode params.codeAction).setWidth 8 <<< 4) ||| ((actionCode params.slipAction).setWidth 8 <<< 2) |||
    (actionCode params.frameAction).setWidth 8

/-- The light monitor's part of READ UPLINK (R34, R179); bits 7..2 of the timers byte read 0 (DESIGN CHOICE, log entry
34). -/
def uplinkMonitorReply (s : State) (p : PortNo) : List Byte :=
  [portByte s.ports[p], lightCode s.ports[p].light, (conditionCode s.ports[p].condition).setWidth 8,
    (effectiveWeight s.params.rampSteps.toNat s.ports[p]).setWidth 8, numberByte s.ports[p].step,
    flagBit (isRunning s.ports[p].restore) 0 ||| flagBit (isRunning s.ports[p].ramp) 1] ++
    halfBytes s.ports[p].flickers

/-- The error grader's part of READ UPLINK (R50, R179); bits 7..3 of the crossed marks and bits 7..6 of the actions
byte read 0 (DESIGN CHOICE, log entry 34). -/
def uplinkGraderReply (s : State) (p : PortNo) : List Byte :=
  [s.graders[p].code, s.graders[p].slip, s.graders[p].frame,
    flagBit s.graders[p].codeMark 2 ||| flagBit s.graders[p].slipMark 1 ||| flagBit s.graders[p].frameMark 0,
    numberByte s.graders[p].clean, s.params.threshold, actionsByte s.params, s.params.cleanWindows]

/-- READ_UPLINK (R34, R50). -/
def execReadUplink (port : Byte) (s : State) : Host.Outcome State Fault Refusal :=
  .next (takeReading (decide (8 ≤ port.toNat))
    (uplinkMonitorReply s (portOfByte port) ++ uplinkGraderReply s (portOfByte port)) s)

/-- The report and the groups of a peer entry in a reply; absent, they read 0 (R111, R179). -/
def peerReportReply (report : Option (Vector Fact 8)) : List Byte :=
  match report with
  | some facts =>
    (facts.toList.map fun f => reportByte f.condition f.weight) ++
      halfBytes (groupsField (Vector.ofFn fun p => facts[p].group))
  | none => List.replicate 10 0

/-- The flags byte of READ PEER, bits 7 and 6 reading 0 (R111, R179; DESIGN CHOICE, log entry 34). -/
def peerFlags (s : State) (station : StationNo) : Byte :=
  flagBit (isRunning s.peers[station].silence) 0 ||| flagBit s.peers[station].lastChecksum.isSome 1 |||
    flagBit s.peers[station].lastDigest.isSome 2 ||| flagBit s.peers[station].report.isSome 3 |||
    flagBit (s.params.presenceInUse && s.pins.presence[station]) 4 ||| flagBit s.params.presenceInUse 5

/-- The reply of READ PEER, 22 bytes (R111, R179). -/
def peerReply (s : State) (station : StationNo) : List Byte :=
  [peerCode s.peers[station].state, sourceCode s.peers[station].source, s.peers[station].lastSequence,
    peerFlags s station, s.peers[station].lastChecksum.getD 0] ++
    halfBytes (s.peers[station].lastDigest.getD 0) ++ [numberByte s.peers[station].divergence] ++
    halfBytes s.peers[station].accepted ++ halfBytes s.peers[station].stale ++
    peerReportReply s.peers[station].report

/-- READ_PEER (R111). -/
def execReadPeer (station : Byte) (s : State) : Host.Outcome State Fault Refusal :=
  .next (takeReading (decide (16 ≤ station.toNat)) (peerReply s (stationOfByte station)) s)

/-- The first byte of READ CANDIDATE, bits 6..1 reading 0 (R179; DESIGN CHOICE, log entry 34). -/
def candidateFlags (c : Candidate) : Byte :=
  flagBit (c.source == .peerReport) 7 ||| flagBit (isCandidate c) 0

/-- The reply of READ CANDIDATE, 5 bytes (R112, R179). -/
def candidateReply (c : Candidate) : List Byte :=
  [candidateFlags c, candidateConditionCode c.condition, numberByte c.group.val, c.weight.setWidth 8, contribution c]

/-- READ_CANDIDATE (R112). -/
def execReadCandidate (uplink : Byte) (s : State) : Host.Outcome State Fault Refusal :=
  .next (takeReading (decide (128 ≤ uplink.toNat))
    (candidateReply (candidateAt s.table.rows (uplinkOfByte uplink))) s)

/-- The bank that READ ENTRY reads: the active one for 0x00, the shadow for 0x01 (R148, R179). -/
def namedBank (s : State) (g : Group) (bank : Byte) : Bool := s.map.active[g] ^^ (bank == 1)

/-- The last three bytes of READ ENTRY: an entry, or a parity failure (R148, R179). -/
def entryReply (w : MapWord) : List Byte :=
  match readWord w with
  | some (primary, backup) => [0, optionalId primary, optionalId backup]
  | none => [1, 0xFF, 0xFF]

/-- The reply of READ ENTRY, 6 bytes (R148, R179). -/
def mapReply (s : State) (g : Group) (b : Bucket) (bank : Byte) : List Byte :=
  flagBit (namedBank s g bank) 0 :: halfBytes s.map.generation[g] ++
    entryReply (storedWord g (namedBank s g bank) b s.map)

/-- READ_ENTRY (R148). -/
def execReadEntry (group : Byte) (bucket : Half) (bank : Byte) (s : State) : Host.Outcome State Fault Refusal :=
  .next (takeReading (decide (4 ≤ group.toNat) || decide (2048 ≤ bucket.toNat) || decide (2 ≤ bank.toNat))
    (mapReply s (groupOfByte group) (bucketOfHalf bucket) bank) s)

/-- READ_COUNTERS (R168): the twenty-one counters in the order of their table. -/
def execReadCounters (s : State) : Host.Outcome State Fault Refusal :=
  .next (takeReading false (s.counters.toList.flatMap halfBytes) s)

/-- The kind and the subject of the first-event record in a reply; absent, each reads 0xFF (R169, R179). -/
def recordReply (record : Option Raise) : List Byte :=
  match record with
  | some r => [numberByte (eventNumber r.kind), r.subject.getD 0xFF]
  | none => [0xFF, 0xFF]

/-- The reply of READ EVENTS, 8 bytes (R169, R179). R179 does not say what bits 15..12 of the pending flags and of the
mask and bits 7..1 of the interrupt byte read: the model reads 0 (DESIGN CHOICE, log entry 34). -/
def eventsReply (e : EventUnit) : List Byte :=
  halfBytes (e.pending.setWidth 16) ++ halfBytes (e.mask.setWidth 16) ++ recordReply e.record ++
    [severityCode e.severity, flagBit e.interrupt 0]

/-- READ_EVENTS (R169): it changes nothing. -/
def execReadEvents (s : State) : Host.Outcome State Fault Refusal := .next (takeReading false (eventsReply s.events) s)

/-! ### The steering commands (10.3) -/

/-- A steering command, which returns no data (10.3). -/
def takeSteering (badArgument portOff allowed : Bool) (effect : State → State) (s : State) : State :=
  takeCommand (commandStatus s.control.station badArgument portOff allowed) [] effect s

/-- The twelve flags of a mask pair (R165, R179). -/
def maskOfHalf (mask : Half) : BitVec 12 := mask.extractLsb' 0 12

/-- CLEAR_EVENTS (R170). -/
def execClearEvents (mask : Half) (s : State) : Host.Outcome State Fault Refusal :=
  .next (takeSteering false false true
    (fun s => { s with events := clearFlags (maskOfHalf mask) s.events }) s)

/-- SET_MASK (R171). -/
def execSetMask (mask : Half) (s : State) : Host.Outcome State Fault Refusal :=
  .next (takeSteering false false true
    (fun s => { s with events := replaceMask (maskOfHalf mask) s.events }) s)

/-- What DRAIN does to a port: DRAINED, from any condition but OFF; a DRAINED port stays as it is (R28). -/
def drainPort (p : PortNo) (s : State) : State :=
  if s.ports[p].condition = .drained then s else movePort p (settledPort .drained s.ports[p]) s

/-- DRAIN (R28). -/
def execDrain (port : Byte) (s : State) : Host.Outcome State Fault Refusal :=
  .next (takeSteering (decide (8 ≤ port.toNat)) (s.ports[portOfByte port].condition == .off)
    (receiveOn s.control.station) (drainPort (portOfByte port)) s)

/-- The port that UNDRAIN leaves: in the ramp or LIT where light is arriving, else DARK (R29). -/
def undrainedPort (params : Params) (p : Port) : Port :=
  if p.light = .noLight then settledPort .dark p else beginService params p

/-- UNDRAIN (R29). -/
def execUndrain (port : Byte) (s : State) : Host.Outcome State Fault Refusal :=
  .next (takeSteering (decide (8 ≤ port.toNat)) (s.ports[portOfByte port].condition == .off)
    (receiveOn s.control.station && s.ports[portOfByte port].condition == .drained)
    (fun s => movePort (portOfByte port) (undrainedPort s.params s.ports[portOfByte port]) s) s)

/-- QUIET (R11). -/
def execQuiet (s : State) : Host.Outcome State Fault Refusal :=
  .next (takeSteering false false (mayGoQuiet s.control.station) (enterQuiet false) s)

/-- Back to JOINING: the queue is emptied and the in-flight notice marked final, the settle timer starts, a JOIN is
demanded (R12, R71). -/
def wakeUp (s : State) : State :=
  demand .join
    { s with
      control := { s.control with station := .joining, settle := settleTime s.params }
      bus := emptyQueue s.bus }

/-- WAKE (R12). -/
def execWake (s : State) : Host.Outcome State Fault Refusal :=
  .next (takeSteering false false (s.control.station == .quiet && !s.control.restartPending) wakeUp s)

/-- A LEAVE is still queued or in transmission (R14). -/
def leaveRemains (b : Bus) : Bool :=
  b.queue.any (fun e => e.kind == .leave) ||
  match b.inFlight with
  | some f => f.entry.kind == .leave
  | none => false

/-- What RESTART does, by the state in which it is taken (R14). -/
def restartStation (s : State) : State :=
  match s.control.station with
  | .joining => enterQuiet true s
  | .operating => enterQuiet true s
  | .quiet =>
    if s.control.restartPending then s
    else if leaveRemains s.bus then { s with control := { s.control with restartPending := true } }
    else restartReset s
  | .muted => restartReset s
  | .configFault => restartReset s
  | .loading => s

/-- RESTART (R14). -/
def execRestart (s : State) : Host.Outcome State Fault Refusal :=
  .next (takeSteering false false true restartStation s)

end Sys2Proof.Machine
end

