-- ==== Sys2Proof/Machine/Light.lean ====
section
/-! DEFINITION. The uplink light monitor (chapter 2): CADENCE_TRANSITION, CADENCE_WINDOW_EXPIRY, LOS_ASSERTION,
LOS_RELEASE, RESTORE_TIMER_EXPIRY and RAMP_TIMER_EXPIRY. -/

namespace Sys2Proof.Machine

/-- Whether the monitor of a port samples its lines: the light monitor has started, and the port is enabled (R16,
R17). -/
def sampling (s : State) (p : PortNo) : Bool := isRunning s.cadenceTimer && s.ports[p].enabled

/-- CADENCE_TRANSITION (R17, R182): CADn changes its level, and the current window has seen a transition. -/
def execCadenceTransition (p : PortNo) (s : State) : Host.Outcome State Fault Refusal :=
  .next { s with
    pins := { s.pins with cadence := s.pins.cadence.set p (!s.pins.cadence[p]) }
    ports := if sampling s p then s.ports.set p { s.ports[p] with transitionSeen := true } else s.ports }

/-- A window is lit when LOS was clear through it and a transition was seen (R17). -/
def windowLit (p : Port) : Bool := !p.losSeen && p.transitionSeen

/-- The light state after a window judgement (R18). -/
def judgedLight (before : LightState) (lit : Bool) : LightState :=
  match before, lit with
  | .light, true => .light
  | .light, false => .flicker
  | .flicker, true => .light
  | .flicker, false => .noLight
  | .noLight, true => .light
  | .noLight, false => .noLight

/-- Whether the judgement of a port's window is a flicker (R18). -/
def isFlicker (p : Port) : Bool := p.enabled && p.light == .light && !windowLit p

/-- What a judgement does to the port condition: light loss at the second unlit window (R18, R21 to R27), and DARK to
HOLDING at a lit one (R22). -/
def judgedCondition (params : Params) (p : Port) : Port :=
  if p.light = .flicker ∧ windowLit p = false then loseLight p
  else if p.condition = .dark ∧ windowLit p = true then
    { p with condition := .holding, restore := restoreTime params }
  else p

/-- An enabled port judges its window, and the next window begins at the present level of LOS (R17, R18). -/
def judgePort (params : Params) (los : Bool) (p : Port) : Port :=
  if p.enabled then
    { judgedCondition params p with
      light := judgedLight p.light (windowLit p)
      flickers := if isFlicker p then saturatingHalf p.flickers else p.flickers
      losSeen := los
      transitionSeen := false }
  else p

/-- CADENCE_WINDOW_EXPIRY (R16, R17, R18): every enabled port judges its window, and the next window starts at once. -/
def execCadenceWindowExpiry (s : State) : Host.Outcome State Fault Refusal :=
  if isRunning s.cadenceTimer then
    .next (movePorts (Vector.ofFn fun p => judgePort s.params s.pins.los[p] s.ports[p]) []
      (bumpTimes .flickers ((List.finRange 8).countP fun p => isFlicker s.ports[p])
        { s with cadenceTimer := cadenceTime s.params }))
  else .next s

/-- LOS_ASSERTION (R19, R182): LOSn goes from low to high; the light state of an enabled port enters NO LIGHT at once,
with the effect of light loss. -/
def execLosAssertion (p : PortNo) (s : State) : Host.Outcome State Fault Refusal :=
  if s.pins.los[p] then .next s
  else if sampling s p ∧ s.ports[p].light ≠ .noLight then
    .next (movePort p { loseLight s.ports[p] with light := .noLight, losSeen := true }
      { s with pins := { s.pins with los := s.pins.los.set p true } })
  else
    .next { s with
      pins := { s.pins with los := s.pins.los.set p true }
      ports := if sampling s p then s.ports.set p { s.ports[p] with losSeen := true } else s.ports }

/-- LOS_RELEASE (R19, R182): LOSn goes from high to low and changes nothing by itself. -/
def execLosRelease (p : PortNo) (s : State) : Host.Outcome State Fault Refusal :=
  .next { s with pins := { s.pins with los := s.pins.los.set p false } }

/-- RESTORE_TIMER_EXPIRY (R23): a HOLDING port goes to RAMPING at k = 1, or to LIT when R = 1. -/
def execRestoreTimerExpiry (p : PortNo) (s : State) : Host.Outcome State Fault Refusal :=
  if s.ports[p].condition = .holding ∧ isRunning s.ports[p].restore = true then
    .next (movePort p (beginService s.params s.ports[p]) s)
  else .next s

/-- The ramp step after an expiry of the ramp timer (R24). -/
def steppedPort (params : Params) (p : Port) : Port :=
  if params.rampSteps.toNat ≤ p.step + 1 then settledPort .lit p
  else { p with step := p.step + 1, ramp := rampTime params }

/-- RAMP_TIMER_EXPIRY (R24): k rises by 1; at k = R the port is LIT. -/
def execRampTimerExpiry (p : PortNo) (s : State) : Host.Outcome State Fault Refusal :=
  if s.ports[p].condition = .ramping ∧ isRunning s.ports[p].ramp = true then
    .next (movePort p (steppedPort s.params s.ports[p]) s)
  else .next s

end Sys2Proof.Machine
end

