-- ==== Sys2Proof/Machine/Lookup.lean ====
section
/-! DEFINITION. The lookup port (chapter 9): LOOKUP_REQUEST and REPLY_FORMATION. -/

namespace Sys2Proof.Machine

/-- The port holds the result of the head's entry read (R153). -/
def holdService (v : Service) (s : State) : State := { s with lookup := { s.lookup with service := some v } }

/-- What a parity failure at an entry read does (R155), with the search that a dirty flag brings (R137). -/
def parityFailed (g : Group) (s : State) : State :=
  search
    (raiseEvents [raiseAbout .mapParity g.val]
      (bump .parityFailures (if s.engine.fault[g] then s else markDirty g s)))

/-- The word that an entry read finds, with the bits that have changed since it was written (R133; log entry 6). -/
def readStored (r : Request) (upset : MapWord) (s : State) : MapWord :=
  storedWord r.group s.map.active[r.group] (reducedBucket s.params.bucketCode r.bucket) s.map ^^^ upset

/-- The bits of the active bank's word that have changed since it was written stay changed (R133; log entry 6). -/
def applyUpset (r : Request) (upset : MapWord) (s : State) : State :=
  { s with
    map := storeWord r.group s.map.active[r.group] (reducedBucket s.params.bucketCode r.bucket)
      (readStored r upset s) s.map }

/-- The entry read of the head (R153, R154, R155). -/
def entryRead (r : Request) (upset : MapWord) (s : State) : State :=
  if servesLookups s.control.station = false ∨ s.map.generation[r.group] = 0 then holdService .notReady s
  else
    match readWord (readStored r upset s) with
    | some (primary, backup) => holdService (.entry primary backup) (applyUpset r upset s)
    | none => parityFailed r.group (holdService .parityFailure (applyUpset r upset s))

/-- The FIFO and the ready output (R150, R151, R152). -/
def setFifo (fifo : List Request) (s : State) : State :=
  { s with lookup := { s.lookup with fifo := fifo, ready := decide (fifo.length < Config.fifoDepth) } }

/-- LOOKUP_REQUEST (R151, R153): taken while ready is high; a request into an empty FIFO gets its entry read. -/
def execLookupRequest (group : Group) (bucket : Bucket) (tag : Tag) (upset : MapWord) (s : State) :
    Host.Outcome State Fault Refusal :=
  if s.lookup.ready then
    if s.lookup.fifo.isEmpty then
      .next (entryRead { group := group, bucket := bucket, tag := tag } upset
        (setFifo [{ group := group, bucket := bucket, tag := tag }] s))
    else .next (setFifo (s.lookup.fifo ++ [{ group := group, bucket := bucket, tag := tag }]) s)
  else .next s

/-- The candidate of a group with the lowest uplink id (R156). -/
def lastResort (g : Group) (rows : Vector (Vector Candidate 8) 16) : Option UplinkId :=
  (List.finRange 128).find? fun u => isCandidateOf g (candidateAt rows u)

/-- Steps 5 and 6 of R156. -/
def resortReply (g : Group) (rows : Vector (Vector Candidate 8) 16) : Via × Option UplinkId :=
  match lastResort g rows with
  | some u => (.lastResort, some u)
  | none => (.none, none)

/-- A choice of the entry, where it is present and a candidate of the group (R156). -/
def usableChoice (g : Group) (rows : Vector (Vector Candidate 8) 16) (choice : Option UplinkId) : Option UplinkId :=
  choice.filter fun u => isCandidateOf g (candidateAt rows u)

/-- The reply that the service and the candidate table give (R156). -/
def formReply (g : Group) (v : Service) (rows : Vector (Vector Candidate 8) 16) : Via × Option UplinkId :=
  match v with
  | .notReady => (.notReady, none)
  | .parityFailure => resortReply g rows
  | .entry primary backup =>
    match usableChoice g rows primary, usableChoice g rows backup with
    | some u, _ => (.primary, some u)
    | none, some u => (.backup, some u)
    | none, none => resortReply g rows

/-- The reply outputs at a delivery, which a pulse of LR_STB marks (R157, R181). -/
def replyPins (before : ReplyPins) (tag : Tag) (reply : Via × Option UplinkId) : ReplyPins :=
  { tag := tag
    via := reply.1
    uplink := match reply.2 with
      | some u => BitVec.ofNat 7 u.val
      | none => 0
    named := reply.2.isSome
    strobes := before.strobes + 1 }

/-- The reply is delivered, and its request leaves the FIFO (R152, R157). -/
def deliver (r : Request) (rest : List Request) (v : Service) (s : State) : State :=
  setFifo rest
    { s with
      lookup := { s.lookup with
        service := none
        reply := replyPins s.lookup.reply r.tag (formReply r.group v s.table.rows) } }

/-- REPLY_FORMATION (R153, R156, R157): the head's reply is delivered, and the next head's entry read follows. -/
def execReplyFormation (upset : MapWord) (s : State) : Host.Outcome State Fault Refusal :=
  match s.lookup.fifo, s.lookup.service with
  | [], _ => .next s
  | _ :: _, none => .next s
  | [r], some v => .next (deliver r [] v s)
  | r :: next :: rest, some v => .next (entryRead next upset (deliver r (next :: rest) v s))

end Sys2Proof.Machine
end

