-- ==== Sys2Proof/Machine/Peers.lean ====
section
/-! DEFINITION. The events of the peer table that no notice brings (chapter 6): SILENCE_TIMER_EXPIRY,
PRESENCE_LINE_FALL and PRESENCE_LINE_RISE. -/

namespace Sys2Proof.Machine

/-- A peer entry that becomes SILENT (R98). -/
def silentPeer (p : Peer) : Peer :=
  { p with state := .silent, silence := .stopped, source := none, divergence := 0 }

/-- Whether the state of an entry is one in which its silence timer runs (R98). -/
def isHeard (p : Peer) : Bool :=
  match p.state with
  | .present => true
  | .mismatch => true
  | .absent => false
  | .silent => false
  | .localEntry => false

/-- SILENCE_TIMER_EXPIRY (R98, R100). -/
def execSilenceTimerExpiry (station : StationNo) (s : State) : Host.Outcome State Fault Refusal :=
  if isHeard s.peers[station] && isRunning s.peers[station].silence then
    .next (movePeer station (silentPeer s.peers[station]) [] [] s)
  else .next s

/-- Whether the fall of a presence line acts on an entry: the peer table has started, presence lines are in use, and the
entry is neither LOCAL nor already ABSENT (R93, R99). -/
def fallActs (station : StationNo) (s : State) : Bool :=
  receiveOn s.control.station && s.params.presenceInUse && s.peers[station].state != .localEntry &&
    s.peers[station].state != .absent

/-- PRESENCE_LINE_FALL (R99, R100, R182): PRESn goes from high to low. -/
def execPresenceLineFall (station : StationNo) (s : State) : Host.Outcome State Fault Refusal :=
  if s.pins.presence[station] = false then .next s
  else if fallActs station s then
    .next (movePeer station (absentPeer s.peers[station]) [] []
      { s with pins := { s.pins with presence := s.pins.presence.set station false } })
  else .next { s with pins := { s.pins with presence := s.pins.presence.set station false } }

/-- PRESENCE_LINE_RISE (R99): PRESn goes from low to high, and changes nothing else. -/
def execPresenceLineRise (station : StationNo) (s : State) : Host.Outcome State Fault Refusal :=
  .next { s with pins := { s.pins with presence := s.pins.presence.set station true } }

end Sys2Proof.Machine
end

