-- ==== Sys2Proof/Machine/Startup.lean ====
section
/-! DEFINITION. Start-up, the configuration record, the settle timer and the attention input (chapter 1): POWER_ON,
ADDRESS_NOT_ACKNOWLEDGED, READ_RETRY_DELAY_EXPIRY, LOADING_TIMEOUT, RECORD_RECEIVED, JOIN_SETTLE_TIMER_EXPIRY,
ATTENTION_ASSERTION and ATTENTION_RELEASE. -/

namespace Sys2Proof.Machine

/-- POWER_ON (R2): the straps have the levels given, and every block takes its power-on values. -/
def execPowerOn (straps : BitVec 4) (s : State) : Host.Outcome State Fault Refusal :=
  .next (powerOnReset { s with pins := { s.pins with straps := straps } })

/-- The loader when it reads no more: what is left to carry out on the bus, after which SCL and SDA are released, and
its timers stopped (R3). -/
def loaderDone (left : List I2cElement) (l : Loader) : Loader :=
  { takeUpBus left l with retry := .stopped, deadline := .stopped }

/-- What is left of a read attempt once its 28th byte has been received: that byte is not acknowledged, and the stop
condition follows (R3). -/
def afterLastByte : List I2cElement := [.acknowledge false, .stop]

/-- Loading ends with a fault: CONFIG FAULT with its cause and its event, and what is left on the bus (R3, R4, R5; log
entry 22). -/
def enterConfigFault (cause : FaultCause) (left : List I2cElement) (s : State) : State :=
  raiseEvents [raiseOf .configFault]
    { s with
      control := { s.control with station := .configFault, cause := some cause }
      loader := loaderDone left s.loader }

/-- A read attempt is on the I2C bus: the station is LOADING, and no retry is waited for (R3). -/
def attemptOnBus (s : State) : Bool :=
  s.control.station == .loading && isRunning s.loader.deadline && !isRunning s.loader.retry

/-- ADDRESS_NOT_ACKNOWLEDGED (R3): the first address ends the attempt with a stop condition and waits 1 ms, the fourth
time it ends loading behind that stop condition; the word address and the read address end loading at once, with SCL and
SDA released. R3 does not say from when the 1 ms counts: the model counts it from the unacknowledged address, so that
the stop condition runs inside it (DESIGN CHOICE, log entry 30). -/
def execAddressNotAcknowledged (stage : AddressStage) (s : State) : Host.Outcome State Fault Refusal :=
  if attemptOnBus s then
    if stage = .firstAddress then
      if s.loader.attempts < Config.readAttemptLimit then
        .next { s with loader := { takeUpBus [.stop] s.loader with retry := .running Config.readRetryDelay } }
      else .next (enterConfigFault .noAcknowledge [.stop] s)
    else .next (enterConfigFault .noAcknowledge [] s)
  else .next s

/-- READ_RETRY_DELAY_EXPIRY (R3): a new read attempt begins. -/
def execReadRetryDelayExpiry (s : State) : Host.Outcome State Fault Refusal :=
  if s.control.station = .loading ∧ isRunning s.loader.retry = true then
    .next { s with
      loader := { takeUpBus readAttempt s.loader with
        attempts := s.loader.attempts + 1, retry := .stopped } }
  else .next s

/-- LOADING_TIMEOUT (R3): the 28th byte has not arrived in 20 ms. -/
def execLoadingTimeout (s : State) : Host.Outcome State Fault Refusal :=
  if s.control.station = .loading ∧ isRunning s.loader.deadline = true then
    .next (enterConfigFault .noAcknowledge [] s)
  else .next s

/-- A port monitor as the light monitor starts: an enabled port in DARK, a disabled one OFF, the first cadence window
begun at the present level of LOS (R16, R17). -/
def startedPort (byte : Byte) (los : Bool) : Port :=
  { recordPort byte with condition := if (recordPort byte).enabled then .dark else .off, losSeen := los }

/-- The eight port monitors as they start (R16). -/
def startedPorts (record : Vector Byte 28) (los : Vector Bool 8) : Vector Port 8 :=
  Vector.ofFn fun p => startedPort (recordPortByte record p) los[p]

/-- The parameters of a good record are handed out, before the state changes (R4, R7, R104). -/
def handOut (record : Vector Byte 28) (s : State) : State :=
  { s with
    params := recordParams record
    control := { s.control with clamp := recordClamped record }
    loader := loaderDone afterLastByte s.loader
    ports := startedPorts record s.pins.los
    events := replaceMask (recordMask record) s.events
    table := changeRow s.control.number
      (Vector.ofFn fun p => ownCandidate (recordParams record).rampSteps.toNat (startedPorts record s.pins.los)[p])
      s.table }

/-- Entry to JOINING from LOADING: the settle, announce, cadence and error window timers start, the idle count starts
from 0, and a JOIN is demanded (R9, R16, R36, R53, R61, R76). -/
def enterJoining (s : State) : State :=
  demand .join
    { s with
      control := { s.control with station := .joining, settle := settleTime s.params }
      notices := { s.notices with announce := announceTime s.params }
      cadenceTimer := cadenceTime s.params
      errorTimer := errorTime s.params
      bus := { s.bus with recovery := .seek, missed := 0, line := .idle, idleCount := 0 } }

/-- RECORD_RECEIVED (R3, R4, R5, R7, R9): the 28th byte arrives, and the read attempt goes on to its stop condition; the
first failed check ends loading, a good record is handed out. -/
def execRecordReceived (record : Vector Byte 28) (s : State) : Host.Outcome State Fault Refusal :=
  if attemptOnBus s then
    match recordFault record with
    | some cause => .next (enterConfigFault cause afterLastByte s)
    | none => .next (enterJoining (handOut record s))
  else .next s

/-- JOIN_SETTLE_TIMER_EXPIRY (R10): OPERATING, all four dirty flags set, and the engine searches (R137). -/
def execJoinSettleTimerExpiry (s : State) : Host.Outcome State Fault Refusal :=
  if s.control.station = .joining ∧ isRunning s.control.settle = true then
    .next (search (markAllDirty
      { s with control := { s.control with station := .operating, settle := .stopped } }))
  else .next s

/-- ATTENTION_ASSERTION (R11, R182): ATTN goes from low to high. -/
def execAttentionAssertion (s : State) : Host.Outcome State Fault Refusal :=
  if s.pins.attn then .next s
  else if mayGoQuiet s.control.station then
    .next (enterQuiet false { s with pins := { s.pins with attn := true } })
  else .next { s with pins := { s.pins with attn := true } }

/-- ATTENTION_RELEASE (R11, R182): ATTN goes from high to low, and can be asserted again. -/
def execAttentionRelease (s : State) : Host.Outcome State Fault Refusal :=
  .next { s with pins := { s.pins with attn := false } }

end Sys2Proof.Machine
end

