-- ==== Sys2Proof/Machine/Dispatch.lean ====
section
/-! DEFINITION. One arm per command: its meaning. -/

namespace Sys2Proof.Machine

/-- The effect of a command on everything but the queue. -/
def exec (i : Instr) (s : State) : Host.Outcome State Fault Refusal :=
  match i with
  | .powerOn straps => Sys2Proof.Machine.execPowerOn straps s
  | .addressNotAcknowledged stage => Sys2Proof.Machine.execAddressNotAcknowledged stage s
  | .readRetryDelayExpiry => Sys2Proof.Machine.execReadRetryDelayExpiry s
  | .loadingTimeout => Sys2Proof.Machine.execLoadingTimeout s
  | .recordReceived record => Sys2Proof.Machine.execRecordReceived record s
  | .joinSettleTimerExpiry => Sys2Proof.Machine.execJoinSettleTimerExpiry s
  | .attentionAssertion => Sys2Proof.Machine.execAttentionAssertion s
  | .spiTransactionOpen => Sys2Proof.Machine.execSpiTransactionOpen s
  | .spiTransactionEnd => Sys2Proof.Machine.execSpiTransactionEnd s
  | .unknownCommand byte => Sys2Proof.Machine.execUnknownCommand byte s
  | .status => Sys2Proof.Machine.execStatus s
  | .readUplink port => Sys2Proof.Machine.execReadUplink port s
  | .readPeer station => Sys2Proof.Machine.execReadPeer station s
  | .readCandidate uplink => Sys2Proof.Machine.execReadCandidate uplink s
  | .readEntry group bucket bank => Sys2Proof.Machine.execReadEntry group bucket bank s
  | .readCounters => Sys2Proof.Machine.execReadCounters s
  | .readEvents => Sys2Proof.Machine.execReadEvents s
  | .clearEvents mask => Sys2Proof.Machine.execClearEvents mask s
  | .setMask mask => Sys2Proof.Machine.execSetMask mask s
  | .drain port => Sys2Proof.Machine.execDrain port s
  | .undrain port => Sys2Proof.Machine.execUndrain port s
  | .quiet => Sys2Proof.Machine.execQuiet s
  | .wake => Sys2Proof.Machine.execWake s
  | .restart => Sys2Proof.Machine.execRestart s
  | .cadenceTransition port => Sys2Proof.Machine.execCadenceTransition port s
  | .cadenceWindowExpiry => Sys2Proof.Machine.execCadenceWindowExpiry s
  | .losAssertion port => Sys2Proof.Machine.execLosAssertion port s
  | .losRelease port => Sys2Proof.Machine.execLosRelease port s
  | .restoreTimerExpiry port => Sys2Proof.Machine.execRestoreTimerExpiry port s
  | .rampTimerExpiry port => Sys2Proof.Machine.execRampTimerExpiry port s
  | .errorPulse port kind => Sys2Proof.Machine.execErrorPulse port kind s
  | .errorWindowExpiry => Sys2Proof.Machine.execErrorWindowExpiry s
  | .lineBusy => Sys2Proof.Machine.execLineBusy s
  | .lineIdle cells => Sys2Proof.Machine.execLineIdle cells s
  | .attemptStart idleCells => Sys2Proof.Machine.execAttemptStart idleCells s
  | .collision agreed heard => Sys2Proof.Machine.execCollision agreed heard s
  | .attemptComplete => Sys2Proof.Machine.execAttemptComplete s
  | .badFrameReceived frame => Sys2Proof.Machine.execBadFrameReceived frame s
  | .joinReceived sender sequence body crc => Sys2Proof.Machine.execJoinReceived sender sequence body crc s
  | .stateReceived sender sequence body crc => Sys2Proof.Machine.execStateReceived sender sequence body crc s
  | .alertReceived sender sequence body crc => Sys2Proof.Machine.execAlertReceived sender sequence body crc s
  | .solicitReceived sender sequence body crc => Sys2Proof.Machine.execSolicitReceived sender sequence body crc s
  | .leaveReceived sender sequence crc => Sys2Proof.Machine.execLeaveReceived sender sequence crc s
  | .announceTimerExpiry => Sys2Proof.Machine.execAnnounceTimerExpiry s
  | .solicitHoldoffExpiry => Sys2Proof.Machine.execSolicitHoldoffExpiry s
  | .silenceTimerExpiry station => Sys2Proof.Machine.execSilenceTimerExpiry station s
  | .presenceLineFall station => Sys2Proof.Machine.execPresenceLineFall station s
  | .presenceLineRise station => Sys2Proof.Machine.execPresenceLineRise station s
  | .bucketDone stuck => Sys2Proof.Machine.execBucketDone stuck s
  | .lookupRequest group bucket tag upset => Sys2Proof.Machine.execLookupRequest group bucket tag upset s
  | .replyFormation upset => Sys2Proof.Machine.execReplyFormation upset s
  | .attentionRelease => Sys2Proof.Machine.execAttentionRelease s

end Sys2Proof.Machine
end

