-- ==== Sys2Proof/Machine/Spi.lean ====
section
/-! DEFINITION. The inspection port's side of the SPI bus (R164): how the edges of SCK gather the bits on MOSI into
bytes and a command, and what level stands on MISO. SPI mode 0: SCK idles low. -/

namespace Sys2Proof.Machine

/-- An edge of SCK while CS_N is low: a rise, with the level that the station samples on MOSI, or a fall. -/
inductive SckEdge where
  | rise (mosi : Bool)
  | fall
  deriving DecidableEq, Repr

/-- What the port has shifted since CS_N fell: the bits of the byte still arriving, the bytes that are complete, and the
number of falls of SCK. -/
structure SpiShift where
  bits : List Bool
  bytes : List Byte
  falls : Nat
  deriving DecidableEq, Repr

/-- CS_N falls: each fall opens a new transaction, in which nothing has been shifted (R164). -/
def SpiShift.start : SpiShift := { bits := [], bytes := [], falls := 0 }

/-- One edge. "The station samples its input on the rising edge, and it changes its output on the falling edge. Each
byte is sent most significant bit first. A byte that the host clocks in is complete at the rising edge that samples
its last bit" (R164). -/
def shiftEdge (p : SpiShift) (e : SckEdge) : SpiShift :=
  match e with
  | .rise mosi =>
    if p.bits.length + 1 < 8 then { p with bits := p.bits ++ [mosi] }
    else { p with bits := [], bytes := p.bytes ++ [byteOfBits (p.bits ++ [mosi])] }
  | .fall => { p with falls := p.falls + 1 }

/-- Edges in their order. -/
def shiftEdges (p : SpiShift) (edges : List SckEdge) : SpiShift := edges.foldl shiftEdge p

/-- The edges by which the host clocks a byte in, most significant bit first (R164). -/
def byteEdges (b : Byte) : List SckEdge := (byteCells b).flatMap fun bit => [.rise bit, .fall]

/-- The command that the edges of a transaction have taken, if any (R164). -/
def commandClockedIn (edges : List SckEdge) : Option Instr := takenCommand (shiftEdges SpiShift.start edges).bytes

/-- The byte that the station clocks out at a place of the transaction, where the command is taken with `taken` bytes:
fill beside the command byte and its arguments, then from the status byte on what `misoByte` gives (R164, R179). -/
def transactionByte (taken : Nat) (t : Transaction) (place : Nat) : Byte :=
  if place < taken then fillByte else misoByte t (place - taken)

/-- The level on MISO: the most significant bit of a byte first, and a new one at each fall of SCK (R164). The first
stands before the first rise, as the host samples it there: mode 0. -/
def misoLevel (taken : Nat) (t : Transaction) (p : SpiShift) : Bool :=
  (transactionByte taken t (p.falls / 8)).getLsbD (7 - p.falls % 8)

/-- The levels that the host reads on MISO, one at each rise of SCK. -/
def misoRead (taken : Nat) (t : Transaction) (p : SpiShift) : List SckEdge → List Bool
  | [] => []
  | .rise mosi :: edges => misoLevel taken t p :: misoRead taken t (shiftEdge p (.rise mosi)) edges
  | .fall :: edges => misoRead taken t (shiftEdge p .fall) edges

end Sys2Proof.Machine
end

