-- ==== Sys2Proof/Safety.lean ====
section
/-! DEFINITION. What holds of a station between commands: the facts of the manual about each block's state that every
step is to keep. No step stops the block (log entry 17), so these are the whole of its safety. -/

namespace Sys2Proof.Machine

/-- Map memory is in its canonical form, which is the model's (log entry 7). -/
def MapOk (s : State) : Prop := Memory.wf s.map.words = true

/-- The interrupt output and the pending severity agree with the flags and the mask (R176), and with no flag pending the
first-event record is empty (R170, R175). -/
def EventsOk (s : State) : Prop :=
  s.events.severity = severityFor s.events.pending s.events.mask ∧
  s.events.interrupt = interruptFor s.events.pending s.events.mask ∧
  (s.events.pending = 0 → s.events.record = none)

/-- The shape of the transmit queue (R68): no two entries of a kind, at most three, a LEAVE alone; attempt counts of
0..7, an urgency mark only on a report. While a LEAVE without the final mark is in flight nothing is queued (R69). -/
def QueueOk (s : State) : Prop :=
  (s.bus.queue.map QueueEntry.kind).Nodup ∧
  s.bus.queue.length ≤ 3 ∧
  (∀ e ∈ s.bus.queue, e.attempts ≤ 7 ∧ (e.urgent = true → e.kind = .report) ∧
    (e.kind = .leave → s.bus.queue.length = 1)) ∧
  (∀ f ∈ s.bus.inFlight, f.entry.attempts ≤ 7 ∧ (f.entry.urgent = true → f.entry.kind = .report) ∧
    (f.entry.kind = .leave → f.final = false → s.bus.queue = []))

/-- What the station state says of the rest of station control (R1, R9, R10, R14): the settle timer runs exactly in
JOINING; a fault cause stands exactly in CONFIG FAULT; a restart waits only in QUIET, and only while a LEAVE without the
final mark is queued or in flight. In QUIET a final-marked notice in flight has a LEAVE queued behind it (R11, R71). -/
def ControlOk (s : State) : Prop :=
  (isRunning s.control.settle = true ↔ s.control.station = .joining) ∧
  (s.control.cause.isSome = true ↔ s.control.station = .configFault) ∧
  (s.control.restartPending = true → s.control.station = .quiet ∧ leaveStands s.bus = true) ∧
  (s.control.station = .quiet →
    ∀ f ∈ s.bus.inFlight, f.final = true → s.bus.queue.any (fun e => e.kind == .leave) = true)

/-- A port monitor is one that R15, R18 and R21 allow, with R the ramp steps. -/
def PortOk (rampSteps : Nat) (p : Port) : Prop :=
  (isRunning p.restore = true ↔ p.condition = .holding) ∧
  (isRunning p.ramp = true ↔ p.condition = .ramping) ∧
  (p.condition = .ramping → 1 ≤ p.step ∧ p.step < rampSteps) ∧
  (p.condition ≠ .ramping → p.step = 0) ∧
  (p.enabled = true → p.weight ≠ 0 ∧ p.condition ≠ .off) ∧
  (p.enabled = false → p.condition = .off ∧ p.light = .noLight ∧ p.flickers = 0)

/-- Every port monitor holds what its condition allows, and R is at most 8 (R6, R15). -/
def PortsOk (s : State) : Prop :=
  s.params.rampSteps.toNat ≤ 8 ∧ ∀ p : PortNo, PortOk s.params.rampSteps.toNat s.ports[p]

/-- A port that is not DEGRADED has a clean count of 0, and every clean count is below Nc (R35, R46, R47). -/
def GradersOk (s : State) : Prop :=
  1 ≤ s.params.cleanWindows.toNat ∧
  ∀ p : PortNo, s.graders[p].clean < s.params.cleanWindows.toNat ∧
    (s.ports[p].condition ≠ .degraded → s.graders[p].clean = 0)

/-- A peer entry is one that R91 to R101 allow. -/
def PeerOk (p : Peer) : Prop :=
  (isRunning p.silence = true ↔ p.state = .present ∨ p.state = .mismatch) ∧
  (p.source.isSome = true ↔ p.state = .mismatch) ∧
  (p.state = .present → p.report.isSome = true) ∧
  (p.state = .absent → p.report = none) ∧
  p.divergence ≤ 2 ∧
  (p.state ≠ .present → p.divergence = 0)

/-- Every peer entry is one that its state allows, and the LOCAL entry is the own number's alone (R92). -/
def PeersOk (s : State) : Prop :=
  ∀ i : StationNo, PeerOk s.peers[i] ∧ (s.peers[i].state = .localEntry ↔ i = s.control.number)

/-- The candidate table follows its sources (R102, R104, R105): the own row the port monitors, every other row its peer
entry. -/
def SourcesOk (s : State) : Prop :=
  s.table.rows[s.control.number] = ownRow s ∧
  ∀ i : StationNo, i ≠ s.control.number →
    s.table.rows[i] = peerRow s.peers[i] s.table.rows[i] ∧
    ∀ p : PortNo, s.table.rows[i][p].source = .peerReport

/-- The view digest is that of the table (R107, R108). -/
def DigestOk (s : State) : Prop := s.table.digest = viewDigest s.table.rows

/-- The engine (R114, R136 to R147): a recompute runs only while receive is on, in a group that is not faulted, at a
bucket below B and with the score unit at the start of a bucket; an engine that is IDLE and may start has no group to
take; and the candidate snapshot is in rising id order, with no id twice and every weight at least 1. -/
def EngineOk (s : State) : Prop :=
  (∀ g b, s.engine.run = .running g b → receiveOn s.control.station = true ∧ s.engine.fault[g] = false ∧
    b.val < bucketCount s.params.bucketCode) ∧
  s.engine.score = ScoreUnit.reset ∧
  (s.engine.run = .idle → engineMayStart s.control.station = true → groupToTake s = none) ∧
  (s.engine.snapshot.map SnapshotPair.uplink).Pairwise (· < ·) ∧
  ∀ pair ∈ s.engine.snapshot, 1 ≤ pair.weight.toNat

/-- The lookup port (R150, R151, R153): at most 8 requests, ready while there are fewer, and a service held exactly
while there is a head. -/
def LookupOk (s : State) : Prop :=
  s.lookup.fifo.length ≤ 8 ∧
  s.lookup.ready = decide (s.lookup.fifo.length < 8) ∧
  (s.lookup.service.isSome = true ↔ s.lookup.fifo ≠ [])

/-- The line (R53, R61): BUSY exactly while the recovery is in TRACK, which it is only while receive is on; a
missed-cell count of 0 or 1 that is 0 in SEEK; and an idle count that holds at 255. -/
def LineOk (s : State) : Prop :=
  (s.bus.line = .busy ↔ s.bus.recovery = .track) ∧
  (s.bus.recovery = .track → receiveOn s.control.station = true) ∧
  s.bus.missed ≤ 1 ∧
  (s.bus.recovery = .seek → s.bus.missed = 0) ∧
  s.bus.idleCount ≤ 255

/-- The driver is released exactly while no notice is in flight (R51, R63). -/
def DriverOk (s : State) : Prop := s.bus.driver = .released ↔ s.bus.inFlight = none

/-- While receive is off, in LOADING and CONFIG FAULT, the blocks keep their reset values (R5, R15, R35, R53, R68, R73,
R93, R102, R132, R136). -/
def DormantOk (s : State) : Prop :=
  receiveOn s.control.station = false →
    s.ports = Vector.replicate 8 Port.reset ∧ s.cadenceTimer = .stopped ∧
    s.graders = Vector.replicate 8 Grader.reset ∧ s.errorTimer = .stopped ∧
    s.bus.queue = [] ∧ s.bus.inFlight = none ∧ s.bus.backoff = none ∧ s.bus.recovery = .seek ∧
    s.notices = Notices.reset ∧ s.counters = Vector.replicate 21 0 ∧
    s.peers = peersReset s.control.number ∧ s.table = CandidateTable.reset s.control.number ∧
    s.engine = Engine.reset ∧ s.map = MapMemory.reset

end Sys2Proof.Machine

/-! ### What a command leaves unchanged, and what changes together -/

namespace Sys2Proof.Machine

/-- Of the bus nothing changes but what demands change: the queue, and the final mark of the notice in flight (R69). -/
def BusDemandsOnly (s t : State) : Prop := t.bus = { s.bus with queue := t.bus.queue, inFlight := t.bus.inFlight }

/-- No station counter changes but the ones named (R168). -/
def CountersBut (named : List Counter) (s t : State) : Prop := ∀ c, c ∉ named → counterOf c t = counterOf c s

/-- A contribution names a group: it is that of a candidate of the group (R107). -/
def NamesGroup (g : Group) (contributed : Byte) : Prop := contributed ≠ 0 ∧ contributed.toNat / 16 = g.val

/-- The dirty flag of a group before the search that an event at the candidate table brings: set before, or called for
by an entry whose contribution changed, where the old or the new contribution names the group (R109). -/
def Flagged (s t : State) (g : Group) : Prop :=
  s.table.dirty[g] = true ∨
  ∃ u : UplinkId, contribution (candidateAt t.table.rows u) ≠ contribution (candidateAt s.table.rows u) ∧
    (NamesGroup g (contribution (candidateAt s.table.rows u)) ∨
      NamesGroup g (contribution (candidateAt t.table.rows u)))

/-- The group is the first, of those after the pointer and going round, that qualifies (R137). -/
def FirstAfter (pointer : Group) (qualified : Group → Prop) (g : Group) : Prop :=
  ∃ k : Fin 4, g = pointer + 1 + k ∧ qualified g ∧ ∀ j : Fin 4, j < k → ¬ qualified (pointer + 1 + j)

/-- The search that follows an event which leaves the engine as `e` and the dirty flags as `flagged`: an IDLE engine
that may start takes the first group after the pointer that is dirty and not faulted, and clears its flag, copies its
candidates and counts a recompute; otherwise engine and flags stay (R137, R138, R139). -/
def SearchFollows (e : Engine) (flagged : Group → Prop) (s t : State) : Prop :=
  (∀ g, e.run = .idle → engineMayStart t.control.station = true →
    FirstAfter e.pointer (fun h => flagged h ∧ e.fault[h] = false) g →
    t.engine = { e with run := .running g 0, snapshot := snapshotOf t.table.rows g, score := ScoreUnit.reset } ∧
    counterOf .recomputes t = saturatingHalf (counterOf .recomputes s) ∧
    ∀ h : Group, t.table.dirty[h] = true ↔ flagged h ∧ h ≠ g) ∧
  ((e.run ≠ .idle ∨ engineMayStart t.control.station = false ∨ ∀ h : Group, ¬ (flagged h ∧ e.fault[h] = false)) →
    t.engine = e ∧ counterOf .recomputes t = counterOf .recomputes s ∧
    ∀ h : Group, t.table.dirty[h] = true ↔ flagged h)

/-- An event at the candidate table: the digest is as before, or where some contribution changed that of the table;
the dirty flags that the change calls for are set, and the engine searches (R106 to R109, R137). -/
def TableFollows (s t : State) : Prop :=
  ((∀ u : UplinkId, contribution (candidateAt t.table.rows u) = contribution (candidateAt s.table.rows u)) →
    t.table.digest = s.table.digest) ∧
  ((∃ u : UplinkId, contribution (candidateAt t.table.rows u) ≠ contribution (candidateAt s.table.rows u)) →
    t.table.digest = viewDigest t.table.rows) ∧
  SearchFollows s.engine (Flagged s t) s t

/-- The clean counts follow the port conditions: a port that is not DEGRADED has a clean count of 0, and nothing else
of a grader changes (R35, R47). -/
def GradersFollow (s t : State) : Prop :=
  ∀ p : PortNo, t.graders[p] =
    if t.ports[p].condition = .degraded then s.graders[p] else { s.graders[p] with clean := 0 }

/-- What no event at the port monitors or the error grader touches, and what follows it at the candidate table. -/
def MonitorFrame (s t : State) : Prop :=
  t.pending = s.pending ∧ t.control = s.control ∧ t.loader = s.loader ∧ t.params = s.params ∧
  t.notices = s.notices ∧ t.peers = s.peers ∧ t.map = s.map ∧ t.lookup = s.lookup ∧
  BusDemandsOnly s t ∧ TableFollows s t ∧
  (∀ i : StationNo, i ≠ s.control.number → t.table.rows[i] = s.table.rows[i]) ∧
  t.table.rows[s.control.number] = ownRow t

/-- What no event at the peer table touches. -/
def PeerFrame (i : StationNo) (s t : State) : Prop :=
  t.pending = s.pending ∧ t.control = s.control ∧ t.loader = s.loader ∧ t.params = s.params ∧ t.ports = s.ports ∧
  t.cadenceTimer = s.cadenceTimer ∧ t.graders = s.graders ∧ t.errorTimer = s.errorTimer ∧
  t.notices = s.notices ∧ t.map = s.map ∧ t.lookup = s.lookup ∧ t.spi = s.spi ∧
  (∀ j : StationNo, j ≠ i → t.peers[j] = s.peers[j] ∧ t.table.rows[j] = s.table.rows[j])

/-! ### Timers and windows -/

/-- One bit cell of 100 ns has passed at a timer: a stopped one stays so, and a running one runs on with a cell less,
down to 0, where it stays until its expiry is told (log entry 1). -/
def PassesCell : Timer → Timer → Prop
  | .stopped, after => after = .stopped
  | .running left, after => after = .running (left - 1)

/-- The crossed mark of an error kind (R35). -/
def markOf (kind : ErrorKind) (g : Grader) : Bool :=
  match kind with
  | .code => g.codeMark
  | .slip => g.slipMark
  | .frame => g.frameMark

/-- The cadence window of an enabled port was unlit (R17). -/
def unlitWindow (p : Port) : Bool := p.enabled && (p.losSeen || !p.transitionSeen)

/-- A port that carries traffic loses its light as its cadence window ends: it is the second unlit one (R18, R24, R25,
R26). -/
def windowDarkens (p : Port) : Bool := unlitWindow p && p.light == .flicker && carriesTraffic p.condition

/-- A port recovers as its error window ends: DEGRADED, with the Nc-th clean window (R46, R47). -/
def windowRestores (params : Params) (p : Port) (g : Grader) : Bool :=
  p.enabled && p.condition == .degraded &&
    [ErrorKind.code, .slip, .frame].all (fun k => !markOf k g || actionOf k params == .report) &&
    decide (params.cleanWindows.toNat ≤ g.clean + 1)

/-! ### Raises (R174 to R176) -/

/-- A kind counts for the interrupt: it is FATAL, or its mark is unmasked (R175, R176). -/
def Counts (mask : BitVec 12) (kind : EventKind) : Prop :=
  eventSeverity kind = .fatal ∨ mask.getLsbD (eventNumber kind) = false

/-- The interrupt output is asserted exactly while a pending flag counts, and the pending severity is the highest of
those flags, or NONE (R176). -/
def Agrees (e : EventUnit) : Prop :=
  (e.interrupt = true ↔ ∃ k, isPending e.pending k = true ∧ Counts e.mask k) ∧
  (∀ k, isPending e.pending k = true → Counts e.mask k →
    (severityCode (eventSeverity k)).toNat ≤ (severityCode e.severity).toNat) ∧
  (e.severity ≠ .none → ∃ k, isPending e.pending k = true ∧ Counts e.mask k ∧ eventSeverity k = e.severity)

/-- A raise that fills an empty record: it is new, and its kind counts (R174, R175). -/
def Fills (e : EventUnit) (r : Raise) : Prop := isPending e.pending r.kind = false ∧ Counts e.mask r.kind

/-- The event unit has taken the raises of one event, in either order: their flags are set and no other, the mask is
as it was; a record that held something is kept, and an empty one takes a raise that fills it, where there is one;
interrupt and severity agree (R174, R175, R176). With no raise nothing changes. -/
def Raises (raises : List Raise) (s t : State) : Prop :=
  (raises = [] → t.events = s.events) ∧
  (raises ≠ [] →
    (∀ k, isPending t.events.pending k = true ↔ isPending s.events.pending k = true ∨ ∃ r ∈ raises, r.kind = k) ∧
    t.events.mask = s.events.mask ∧
    (∀ r, s.events.record = some r → t.events.record = some r) ∧
    (s.events.record = none → (∀ r ∈ raises, ¬ Fills s.events r) → t.events.record = none) ∧
    (s.events.record = none → (∃ r ∈ raises, Fills s.events r) →
      ∃ r ∈ raises, Fills s.events r ∧ t.events.record = some r) ∧
    Agrees t.events)

/-! ### The line -/

/-- How far the expected boundary moves at the end of a cell, in picoseconds: a cell, and a sixteenth of one toward
the boundary transition; a missed cell does not correct it (R55, R56; log entry 36 for which of several transitions it
is). -/
def cellAdvance (offset : Option Int) : Int :=
  100000 + match offset with
    | none => 0
    | some o => if o < 0 then -6250 else if 0 < o then 6250 else 0

/-- The cells have passed the clock recovery: in TRACK the expected boundary has moved, and the missed-cell count is
that of the last cell; in SEEK nothing has (R54, R55, R56; that the expected boundary is kept in SEEK is log entry 33).
-/
def Timed (times : List (Option Int)) (before after : Bus) : Prop :=
  (before.recovery = .track → after.boundary = before.boundary + (times.map cellAdvance).sum ∧
    after.missed = match times.getLast? with
      | none => before.missed
      | some offset => if offset = none then 1 else 0) ∧
  (before.recovery = .seek → after.boundary = before.boundary ∧ after.missed = before.missed)

/-- A frame has ended at the receiver: its cells have passed the recovery, the receiver is SPENT, and of the bus
nothing else changes but what demands change (R55, R58). -/
def FrameEnds (times : List (Option Int)) (s t : State) : Prop :=
  Timed times s.bus t.bus ∧
  t.bus = { s.bus with
    boundary := t.bus.boundary, missed := t.bus.missed, queue := t.bus.queue, inFlight := t.bus.inFlight
    receiver := { Receiver.reset with phase := .spent } }

/-- The cells were heard as an attempt sent them, from its first cell on (R64). -/
def HeardAsSent (f : InFlight) (cells : List LineCell) : Prop :=
  cells.map cellValue = ((frameCells f.frame).take cells.length).map some

/-- An attempt has completed, its cells passing the clock recovery: the line is released, the notice gone, the receiver
SPENT, the sent counter of its kind up, the announce timer restarted after a report and the holdoff after a SOLICIT
(R55, R67, R76, R77). -/
def AttemptSent (times : List (Option Int)) (f : InFlight) (s t : State) : Prop :=
  Timed times s.bus t.bus ∧
  t.bus = { s.bus with
    boundary := t.bus.boundary, missed := t.bus.missed
    driver := .released, inFlight := none, receiver := { Receiver.reset with phase := .spent } } ∧
  counterOf (sentCounter (kindOnLine f.entry)) t = saturatingHalf (counterOf (sentCounter (kindOnLine f.entry)) s) ∧
  CountersBut [sentCounter (kindOnLine f.entry)] s t ∧
  (f.entry.kind = .report → t.notices =
    { s.notices with announce := .running (s.params.announce.toNat * 10000) }) ∧
  (f.entry.kind = .solicit → t.notices =
    { s.notices with holdoff := .running (4 * s.params.announce.toNat * 10000) }) ∧
  (f.entry.kind ≠ .report → f.entry.kind ≠ .solicit → t.notices = s.notices) ∧
  t = { s with freeCount := t.freeCount, bus := t.bus, counters := t.counters, notices := t.notices }

/-- The head of the queue, by its place: the REPORT entry with the urgency mark, or with none the oldest entry (R70). -/
def IsHead (queue : List QueueEntry) (place : Nat) (e : QueueEntry) : Prop :=
  queue[place]? = some e ∧
  ((e.kind = .report ∧ e.urgent = true ∧
      ∀ k, k < place → ∀ e', queue[k]? = some e' → ¬ (e'.kind = .report ∧ e'.urgent = true)) ∨
    (place = 0 ∧ ∀ e' ∈ queue, e'.kind = .report → e'.urgent = false))

/-- The required wait of a head: the gap of 24 or 48 cells, and 8 cells for each slot of a backoff owed (R62). -/
def waitOf (b : Bus) (e : QueueEntry) : Nat :=
  (if e.kind = .report ∧ e.urgent = true then 24 else 48) +
    match b.backoff with
    | some owed => 8 * owed.slots
    | none => 0

/-! ### Map words (R133, R180) -/

/-- A primary and a backup of the shape that an entry has: a backup stands only beside a primary, and differs from it
(R122, R133). -/
def EntryShape (primary backup : Option UplinkId) : Prop :=
  ∀ v, backup = some v → primary ≠ none ∧ primary ≠ some v

/-- The seven id bits of a field: the id, or all clear where it is absent (R180). -/
def idBits : Option UplinkId → BitVec 7
  | none => 0
  | some u => BitVec.ofNat 7 u.val

/-- How many bits of a stored word are set. -/
def bitsSet (w : MapWord) : Nat := (List.range 17).countP fun i => w.getLsbD i

/-! ### The lookup port's entry read (R153 to R155) -/

/-- The entry read of a request: NOT READY where the station does not serve or the group has not flipped, and nothing
else; else the active word of the reduced bucket, as it stands with the bits that have changed (log entry 6), which
stay changed. A word that passes its check is the service; one that fails raises MAP PARITY, is counted, and flags the
group unless it is faulted, and the engine searches. -/
def ReadsEntry (r : Request) (upset : MapWord) (s t : State) : Prop :=
  (((s.control.station ≠ .operating ∧ s.control.station ≠ .muted) ∨ s.map.generation[r.group] = 0) →
    t.lookup.service = some .notReady ∧ t = { s with lookup := t.lookup }) ∧
  ((s.control.station = .operating ∨ s.control.station = .muted) → s.map.generation[r.group] ≠ 0 →
    ∀ (b : Bucket) (w : MapWord), b.val = r.bucket.val % (256 * 2 ^ s.params.bucketCode.toNat) →
    w = storedWord r.group s.map.active[r.group] b s.map ^^^ upset →
    storedWord r.group s.map.active[r.group] b t.map = w ∧
    t.map.active = s.map.active ∧ t.map.generation = s.map.generation ∧
    (∀ (g : Group) (k : Bool) (b' : Bucket), ¬ (g = r.group ∧ k = s.map.active[r.group] ∧ b' = b) →
      storedWord g k b' t.map = storedWord g k b' s.map) ∧
    (∀ e, readWord w = some e →
      t.lookup.service = some (.entry e.1 e.2) ∧ t = { s with lookup := t.lookup, map := t.map }) ∧
    (readWord w = none →
      t.lookup.service = some .parityFailure ∧ Raises [raiseAbout .mapParity r.group.val] s t ∧
      counterOf .parityFailures t = saturatingHalf (counterOf .parityFailures s) ∧
      CountersBut [.parityFailures, .recomputes] s t ∧
      SearchFollows s.engine
        (fun h => s.table.dirty[h] = true ∨ (h = r.group ∧ s.engine.fault[r.group] = false)) s t ∧
      t = { s with
        lookup := t.lookup, map := t.map, events := t.events, counters := t.counters, engine := t.engine
        table := { s.table with dirty := t.table.dirty } }))

/-! ### Demands and rows -/

/-- No demand has been made, or none has reached the queue. -/
def DemandsNothing (s t : State) : Prop := t.bus.queue = s.bus.queue ∧ t.bus.inFlight = s.bus.inFlight

/-- A demand for an entry of the kind has been made, once or more, with the urgency mark of an ALERT when `urgent`.
Where the state allows it and no LEAVE stands, the entry of the kind takes the mark, or a new entry becomes the
youngest; elsewhere the demand is dropped (R1, R69). -/
def Demands (kind : EntryKind) (urgent : Bool) (s t : State) : Prop :=
  (transmitAllowed s.control.station kind = true → leaveStands s.bus = false →
    t.bus.inFlight = s.bus.inFlight ∧
    ((∃ e ∈ s.bus.queue, e.kind = kind) →
      t.bus.queue = s.bus.queue.map fun e => if e.kind = kind then { e with urgent := e.urgent || urgent } else e) ∧
    ((∀ e ∈ s.bus.queue, e.kind ≠ kind) →
      t.bus.queue = s.bus.queue ++ [{ kind := kind, urgent := urgent, attempts := 0 }])) ∧
  ((transmitAllowed s.control.station kind = false ∨ leaveStands s.bus = true) → DemandsNothing s t)

/-- A report demand has been made, an ALERT when `urgent`, else a STATE (R31, R69). -/
def DemandsReport (urgent : Bool) (s t : State) : Prop := Demands .report urgent s t

/-- The eight candidate entries of a station read NOT HEARD with weight 0 and keep their source and group (R105). -/
def RowUnheard (i : StationNo) (s t : State) : Prop :=
  ∀ p : PortNo, t.table.rows[i][p] = { s.table.rows[i][p] with condition := none, weight := 0 }

/-- Eight facts are read from eight report bytes and a groups field by the table of R83: a candidate's condition with
weight 1..15 as sent, another condition with weight 0, and DARK with weight 0 for a candidate's condition with weight 0
and for a code of 7..15; the group as sent, the lower-numbered port in the higher bits. -/
def ReadAs (report : PortNo → Byte) (groups : Nat) (facts : Vector Fact 8) : Prop :=
  ∀ p : PortNo,
    facts[p].group.val = groups / 4 ^ (7 - p.val) % 4 ∧
    (∀ c : Condition, (report p).toNat / 16 = (conditionCode c).toNat →
      (carriesTraffic c = true → 1 ≤ (report p).toNat % 16 →
        facts[p].condition = c ∧ facts[p].weight.toNat = (report p).toNat % 16) ∧
      (carriesTraffic c = true → (report p).toNat % 16 = 0 → facts[p].condition = .dark ∧ facts[p].weight = 0) ∧
      (carriesTraffic c = false → facts[p].condition = c ∧ facts[p].weight = 0)) ∧
    (7 ≤ (report p).toNat / 16 → facts[p].condition = .dark ∧ facts[p].weight = 0)

/-- The eight candidate entries of a station hold eight facts (R105). -/
def RowHolds (i : StationNo) (facts : Vector Fact 8) (s t : State) : Prop :=
  ∀ p : PortNo, t.table.rows[i][p] =
    { s.table.rows[i][p] with
      condition := some facts[p].condition, group := facts[p].group, weight := facts[p].weight }

/-- Loading ends with a fault: CONFIG FAULT with its cause, the loader's timers stopped, what is left of the read
attempt on the bus, with SCL and SDA released where that is nothing, and the FATAL event CONFIG FAULT raised; nothing
else changes (R3, R4, R5). -/
def EntersConfigFault (cause : FaultCause) (left : List I2cElement) (s t : State) : Prop :=
  t = { s with
    control := { s.control with station := .configFault, cause := some cause }
    loader := { s.loader with bus := left, quarter := 0, cells := 0, retry := .stopped, deadline := .stopped }
    events := t.events } ∧
  Raises [{ kind := .configFault, subject := none }] s t

/-- Entry to QUIET: the queue holds a LEAVE alone, the notice in flight has the final mark, the settle timer is
stopped, the restart-pending mark is as asked; tables, timers and map stay, and the engine searches (R11, R14, R71).
-/
def EntersQuiet (restart : Bool) (s t : State) : Prop :=
  t.control = { s.control with station := .quiet, settle := .stopped, restartPending := restart } ∧
  t.bus = { s.bus with
    queue := [{ kind := .leave, urgent := false, attempts := 0 }]
    inFlight := s.bus.inFlight.map fun f => { f with final := true } } ∧
  t.pending = s.pending ∧ t.loader = s.loader ∧ t.params = s.params ∧ t.ports = s.ports ∧
  t.cadenceTimer = s.cadenceTimer ∧ t.graders = s.graders ∧ t.errorTimer = s.errorTimer ∧ t.notices = s.notices ∧
  t.peers = s.peers ∧ t.table.rows = s.table.rows ∧ t.table.digest = s.table.digest ∧ t.map = s.map ∧
  t.lookup = s.lookup ∧ t.events = s.events ∧ CountersBut [.recomputes] s t ∧
  SearchFollows s.engine (fun h => s.table.dirty[h] = true) s t

/-- The reset that ends a RESTART: LOADING, the number from the straps, every block at its reset values, the read
attempt begun; the queue of commands, the pins, the transaction, the requests of the lookup FIFO and the reply outputs
are kept, and a request that is held is answered NOT READY (R2, R14, R163, R166). -/
def Resets (s t : State) : Prop :=
  t.control.station = .loading ∧ t.control.number.val = s.pins.straps.toNat ∧ t.control.settle = .stopped ∧
  t.control.restartPending = false ∧ t.control.cause = none ∧ t.control.clamp = false ∧
  t.loader =
    { attempts := 1, bus := readAttempt, quarter := 0, cells := 0, retry := .stopped, deadline := .running 200000 } ∧
  t.params.threshold = 16 ∧ t.params.codeAction = .dark ∧ t.params.slipAction = .degrade ∧
  t.params.frameAction = .degrade ∧ t.params.cleanWindows = 4 ∧
  t.ports = State.reset.ports ∧ t.cadenceTimer = .stopped ∧ t.graders = State.reset.graders ∧
  t.errorTimer = .stopped ∧ t.bus.driver = .released ∧ t.bus.recovery = .seek ∧ t.bus.missed = 0 ∧
  t.bus.line = .idle ∧ t.bus.idleCount = 0 ∧ t.bus.backoff = none ∧ t.bus.queue = [] ∧ t.bus.inFlight = none ∧
  t.notices = State.reset.notices ∧ t.counters = State.reset.counters ∧
  (∀ i : StationNo, t.peers[i] =
    Peer.reset (if i.val = s.pins.straps.toNat then .localEntry else .absent)) ∧
  (∀ (i : StationNo) (p : PortNo), t.table.rows[i][p] =
    if i.val = s.pins.straps.toNat then Candidate.ownReset else Candidate.unheard) ∧
  t.table.digest = crc16 (List.replicate 128 0) ∧ t.table.dirty = State.reset.table.dirty ∧
  t.engine = State.reset.engine ∧ t.map = State.reset.map ∧ t.events = State.reset.events ∧
  t.pending = s.pending ∧ t.pins = s.pins ∧ t.lookup.fifo = s.lookup.fifo ∧ t.lookup.ready = s.lookup.ready ∧
  t.lookup.reply = s.lookup.reply ∧
  t.lookup.service = (if s.lookup.fifo = [] then none else some .notReady)

/-! ### The acceptance of inspection commands (R165 and the tables of 10.2 and 10.3) -/

/-- The commands that come in an inspection transaction. -/
def isInspection : Instr → Bool
  | .unknownCommand _ => true
  | .status => true
  | .readUplink _ => true
  | .readPeer _ => true
  | .readCandidate _ => true
  | .readEntry _ _ _ => true
  | .readCounters => true
  | .readEvents => true
  | .clearEvents _ => true
  | .setMask _ => true
  | .drain _ => true
  | .undrain _ => true
  | .quiet => true
  | .wake => true
  | .restart => true
  | _ => false

/-- The command byte names no command, or an argument lies outside its range. -/
def argumentBad : Instr → Bool
  | .unknownCommand _ => true
  | .readUplink port => decide (port.toNat > 7)
  | .readPeer station => decide (station.toNat > 15)
  | .readCandidate uplink => decide (uplink.toNat > 127)
  | .readEntry group bucket bank =>
    decide (group.toNat > 3) || decide (bucket.toNat > 2047) || (bank != 0x00 && bank != 0x01)
  | .drain port => decide (port.toNat > 7)
  | .undrain port => decide (port.toNat > 7)
  | _ => false

/-- The command names a port that is OFF. -/
def namesOffPort (s : State) : Instr → Bool
  | .drain port => (s.ports.toList.getD port.toNat Port.reset).condition == .off
  | .undrain port => (s.ports.toList.getD port.toNat Port.reset).condition == .off
  | _ => false

/-- The command is allowed in the present state, as its row gives. -/
def allowedNow (s : State) : Instr → Bool
  | .drain _ => receiveOn s.control.station
  | .undrain port =>
    receiveOn s.control.station && (s.ports.toList.getD port.toNat Port.reset).condition == .drained
  | .quiet => s.control.station == .joining || s.control.station == .operating
  | .wake => s.control.station == .quiet && !s.control.restartPending
  | _ => true

/-- A notice as its command carries it. -/
def noticeOf : Instr → Option Notice
  | .joinReceived sender sequence body crc =>
    some { kind := .join, sender := sender, sequence := sequence, body := body.toList, crc := crc.value }
  | .stateReceived sender sequence body crc =>
    some { kind := .state, sender := sender, sequence := sequence, body := body.toList, crc := crc.value }
  | .alertReceived sender sequence body crc =>
    some { kind := .alert, sender := sender, sequence := sequence, body := body.toList, crc := crc.value }
  | .solicitReceived sender sequence body crc =>
    some { kind := .solicit, sender := sender, sequence := sequence, body := body.toList, crc := crc.value }
  | .leaveReceived sender sequence crc =>
    some { kind := .leave, sender := sender, sequence := sequence, body := [], crc := crc.value }
  | _ => none

/-- The cells that a received-frame command tells (log entry 5). -/
def timesOf : Instr → List (Option Int)
  | .joinReceived _ _ _ crc => crc.times
  | .stateReceived _ _ _ crc => crc.times
  | .alertReceived _ _ _ crc => crc.times
  | .solicitReceived _ _ _ crc => crc.times
  | .leaveReceived _ _ crc => crc.times
  | .badFrameReceived frame => frame.times
  | _ => []

/-- The frame of a notice arrives intact from another, seated station while receive is on and no attempt is: it is
handed on (R60), and the first four checks of R78 pass. -/
def Arrives (n : Notice) (s : State) : Prop :=
  receiveOn s.control.station = true ∧
  s.bus.inFlight = none ∧
  n.crc = crc16 (headerByte n.kind n.sender :: n.sequence :: n.body) ∧
  n.sender ≠ s.control.number ∧
  (s.params.presenceInUse = true → s.pins.presence[n.sender] = true)

/-- The last check of R78 passes: the sequence is accepted, by the table of R82. -/
def Accepted (n : Notice) (s : State) : Prop :=
  n.kind = .join ∨ s.peers[n.sender].state = .absent ∨ s.peers[n.sender].state = .silent ∨
  ((s.peers[n.sender].state = .present ∨ s.peers[n.sender].state = .mismatch) ∧
    1 ≤ (256 + n.sequence.toNat - s.peers[n.sender].lastSequence.toNat) % 256 ∧
    (256 + n.sequence.toNat - s.peers[n.sender].lastSequence.toNat) % 256 ≤ 127)

/-- What acceptance counts and keeps, whatever the kind (R58, R82): the entry's last sequence and accepted count, the
received count of the kind; no other counter but the recomputes; the frame has ended at the receiver. -/
def Counted (n : Notice) (times : List (Option Int)) (s t : State) : Prop :=
  t.peers[n.sender].lastSequence = n.sequence ∧
  t.peers[n.sender].accepted = saturatingHalf s.peers[n.sender].accepted ∧
  t.peers[n.sender].stale = s.peers[n.sender].stale ∧
  counterOf (receivedCounter n.kind) t = saturatingHalf (counterOf (receivedCounter n.kind) s) ∧
  CountersBut [receivedCounter n.kind, .recomputes] s t ∧
  t.pins = s.pins ∧ FrameEnds times s t

end Sys2Proof.Machine
end

