-- ==== Sys2Proof/WellFormed.lean ====
section
/-! DEFINITION. Which commands tell an event that can occur: checks on operands that their types leave open. The step
does not need them; they say what a sender may send. -/

namespace Sys2Proof

open Sys2Proof.Machine

/-- The offset of a boundary transition lies in the boundary part (R55). -/
def offsetInPart (offset : Int) : Bool :=
  decide (-Config.quarterCellPicoseconds ≤ offset) && decide (offset ≤ Config.quarterCellPicoseconds)

/-- A cell of the line: its boundary transition, if any, lies in the boundary part (R55). -/
def LineCell.wf (c : LineCell) : Bool := c.boundary.all offsetInPart

/-- A frame that R78 discards: a COMPLETE one has the length that its kind nibble declares and a CRC that disagrees. -/
def BadFrame.wf : BadFrame → Bool
  | .codeViolation => true
  | .truncated => true
  | .complete covered crc => declaredLength (covered.getD 0 0) == some (covered.length + 2) && noticeCrc covered != crc

/-- No two missed cells stand in a row: the second would have made the line IDLE (R56). -/
def noMissedPair : List (Option Int) → Bool
  | [] => true
  | [_] => true
  | a :: b :: rest => (a.isSome || b.isSome) && noMissedPair (b :: rest)

/-- The cells told with a frame that is handed on: every boundary transition lies in its boundary part, and no two
missed cells stand in a row. -/
def timesOk (times : List (Option Int)) : Bool := times.all (fun o => o.all offsetInPart) && noMissedPair times

/-- The cells told with a COMPLETE frame, among which no cell of the frame, or of the sixteen that led to it, is a
missed one (R57, R59). -/
def completeTimes (kind : NoticeKind) (times : List (Option Int)) : Bool :=
  timesOk times && (times.reverse.take (16 + 8 * noticeLength kind)).all Option.isSome

/-- The operands of a command tell an event that can occur. -/
def Instr.wf : Instr → Bool
  | .unknownCommand byte => (argumentLength byte).isNone
  | .lineIdle cells => cells.all LineCell.wf && noMissedPair (cells.map LineCell.boundary)
  | .collision agreed heard =>
    decide (agreed.length < frameCellCount .join) && agreed.all offsetInPart && heard.wf
  | .badFrameReceived frame => frame.value.wf && timesOk frame.times
  | .joinReceived sender sequence body crc =>
    noticeCrc (coveredBytes .join sender sequence body.toList) == crc.value && completeTimes .join crc.times
  | .stateReceived sender sequence body crc =>
    noticeCrc (coveredBytes .state sender sequence body.toList) == crc.value && completeTimes .state crc.times
  | .alertReceived sender sequence body crc =>
    noticeCrc (coveredBytes .alert sender sequence body.toList) == crc.value && completeTimes .alert crc.times
  | .solicitReceived sender sequence body crc =>
    noticeCrc (coveredBytes .solicit sender sequence body.toList) == crc.value && completeTimes .solicit crc.times
  | .leaveReceived sender sequence crc =>
    noticeCrc (coveredBytes .leave sender sequence []) == crc.value && completeTimes .leave crc.times
  | .powerOn _ => true
  | .addressNotAcknowledged _ => true
  | .readRetryDelayExpiry => true
  | .loadingTimeout => true
  | .recordReceived _ => true
  | .joinSettleTimerExpiry => true
  | .attentionAssertion => true
  | .spiTransactionOpen => true
  | .spiTransactionEnd => true
  | .status => true
  | .readUplink _ => true
  | .readPeer _ => true
  | .readCandidate _ => true
  | .readEntry _ _ _ => true
  | .readCounters => true
  | .readEvents => true
  | .clearEvents _ => true
  | .setMask _ => true
  | .drain _ => true
  | .undrain _ => true
  | .quiet => true
  | .wake => true
  | .restart => true
  | .cadenceTransition _ => true
  | .cadenceWindowExpiry => true
  | .losAssertion _ => true
  | .losRelease _ => true
  | .restoreTimerExpiry _ => true
  | .rampTimerExpiry _ => true
  | .errorPulse _ _ => true
  | .errorWindowExpiry => true
  | .lineBusy => true
  | .attemptStart _ => true
  | .attemptComplete => true
  | .announceTimerExpiry => true
  | .solicitHoldoffExpiry => true
  | .silenceTimerExpiry _ => true
  | .presenceLineFall _ => true
  | .presenceLineRise _ => true
  | .bucketDone _ => true
  | .lookupRequest _ _ _ _ => true
  | .replyFormation _ => true
  | .attentionRelease => true

end Sys2Proof
end

