-- ==== Sys2Proof/Certificates/Slice0/Obligations.lean ====
section
/-! DEFINITION. The statements about the model, for the provers. -/

open Sys2Proof Sys2Proof.Machine

/-! ### The step and the commands -/

/-- A step runs the command at the front of the queue on the queue's rest. -/
def Obligations.StepRunsFrontCommand : Prop :=
  ∀ (c : Instr) (rest : List Instr) (s : State), s.pending = c :: rest →
    step s = exec c { s with pending := rest }

/-- On an empty queue one bit cell of 100 ns passes: the model's choice (log entry 2). Every running timer holds a cell
less, down to 0 (log entry 1), the idle count goes on, and so does the loader on SCL and SDA, quarter by quarter of a
clock of 10 µs (log entry 22); with SCL released it waits while the EEPROM holds SCL low. Nothing else changes (R3,
R61). -/
def Obligations.EmptyQueuePassesOneCell : Prop :=
  ∀ s : State, s.pending = [] → ∃ t, step s = .next t ∧
    (s.bus.line = .idle → t.bus.idleCount = min 255 (s.bus.idleCount + 1)) ∧
    (s.bus.line = .busy → t.bus.idleCount = s.bus.idleCount) ∧
    t.bus = { s.bus with idleCount := t.bus.idleCount } ∧
    PassesCell s.control.settle t.control.settle ∧
    t.control = { s.control with settle := t.control.settle } ∧
    PassesCell s.notices.announce t.notices.announce ∧ PassesCell s.notices.holdoff t.notices.holdoff ∧
    t.notices = { s.notices with announce := t.notices.announce, holdoff := t.notices.holdoff } ∧
    PassesCell s.cadenceTimer t.cadenceTimer ∧ PassesCell s.errorTimer t.errorTimer ∧
    PassesCell s.loader.retry t.loader.retry ∧ PassesCell s.loader.deadline t.loader.deadline ∧
    (∀ i : StationNo, PassesCell s.peers[i].silence t.peers[i].silence ∧
      t.peers[i] = { s.peers[i] with silence := t.peers[i].silence }) ∧
    (∀ p : PortNo, PassesCell s.ports[p].restore t.ports[p].restore ∧ PassesCell s.ports[p].ramp t.ports[p].ramp ∧
      t.ports[p] = { s.ports[p] with restore := t.ports[p].restore, ramp := t.ports[p].ramp }) ∧
    ((s.loader.bus = [] ∨ ((loaderDrive s.loader).scl = true ∧ s.pins.sclHeld = true)) →
      t.loader.bus = s.loader.bus ∧ t.loader.quarter = s.loader.quarter ∧ t.loader.cells = s.loader.cells) ∧
    (∀ e rest, s.loader.bus = e :: rest → ((loaderDrive s.loader).scl = false ∨ s.pins.sclHeld = false) →
      (s.loader.cells + 1 < 25 → t.loader.bus = s.loader.bus ∧ t.loader.quarter = s.loader.quarter ∧
        t.loader.cells = s.loader.cells + 1) ∧
      (25 ≤ s.loader.cells + 1 → s.loader.quarter + 1 < (elementDrives e).length →
        t.loader.bus = s.loader.bus ∧ t.loader.quarter = s.loader.quarter + 1 ∧ t.loader.cells = 0) ∧
      (25 ≤ s.loader.cells + 1 → (elementDrives e).length ≤ s.loader.quarter + 1 →
        t.loader.bus = rest ∧ t.loader.quarter = 0 ∧ t.loader.cells = 0)) ∧
    t.loader.attempts = s.loader.attempts ∧ t.lookup = s.lookup ∧ t.freeCount = s.freeCount ∧
    t.pending = [] ∧ t.pins = s.pins ∧ t.params = s.params ∧ t.graders = s.graders ∧ t.counters = s.counters ∧
    t.table = s.table ∧ t.engine = s.engine ∧ t.map = s.map ∧ t.spi = s.spi ∧ t.events = s.events

/-- Every command answers a next state and leaves the commands that wait; no parameter changes but in LOADING, at the
handing-out, and at a reset, which leads to LOADING (R7; that no command stops is log entry 17). -/
def Obligations.CommandsNeverStop : Prop :=
  ∀ (c : Instr) (s : State), ∃ t, exec c s = .next t ∧ t.pending = s.pending ∧
    (t.params = s.params ∨ s.control.station = .loading ∨ t.control.station = .loading)

/-! ### Start-up -/

/-- POWER_ON: LOADING, the number from the straps, the first read attempt begun, every block at its reset values. The
levels on the pins and the commands that wait stay (log entries 8, 13 and 35 name the values that the manual leaves,
log entry 32 the moment from which the 20 ms count). -/
def Obligations.PowerOnTakesResetValues : Prop :=
  ∀ (straps : BitVec 4) (s : State), ∃ t, exec (.powerOn straps) s = .next t ∧
    t.pins = { s.pins with straps := straps } ∧ t.pending = s.pending ∧
    t.control.station = .loading ∧ t.control.number.val = straps.toNat ∧ t.control.settle = .stopped ∧
    t.control.restartPending = false ∧ t.control.cause = none ∧ t.control.clamp = false ∧
    t.loader =
      { attempts := 1, bus := readAttempt, quarter := 0, cells := 0, retry := .stopped, deadline := .running 200000 } ∧
    t.ports = Vector.replicate 8 Port.reset ∧ t.cadenceTimer = .stopped ∧
    t.graders = Vector.replicate 8 Grader.reset ∧ t.errorTimer = .stopped ∧
    t.params.threshold = 16 ∧ t.params.codeAction = .dark ∧ t.params.slipAction = .degrade ∧
    t.params.frameAction = .degrade ∧ t.params.cleanWindows = 4 ∧
    t.bus.driver = .released ∧ t.bus.recovery = .seek ∧ t.bus.missed = 0 ∧ t.bus.line = .idle ∧
    t.bus.idleCount = 0 ∧ t.bus.queue = [] ∧ t.bus.inFlight = none ∧ t.bus.backoff = none ∧
    t.notices.sequence = 0 ∧ t.notices.announce = .stopped ∧ t.notices.holdoff = .stopped ∧
    (∀ c, counterOf c t = 0) ∧
    (∀ i : StationNo, t.peers[i] = Peer.reset (if i.val = straps.toNat then .localEntry else .absent)) ∧
    (∀ (i : StationNo) (p : PortNo), t.table.rows[i][p] =
      if i.val = straps.toNat then { source := .ownPort, condition := some .off, group := 0, weight := 0 }
      else { source := .peerReport, condition := none, group := 0, weight := 0 }) ∧
    t.table.digest = crc16 (List.replicate 128 0) ∧ (∀ g : Group, t.table.dirty[g] = false) ∧
    t.engine.run = .idle ∧ t.engine.snapshot = [] ∧ t.engine.pointer = 3 ∧
    (∀ g : Group, t.engine.retried[g] = false ∧ t.engine.fault[g] = false) ∧
    (∀ (g : Group) (k : Bool) (b : Bucket), storedWord g k b t.map = 0x00001) ∧
    (∀ g : Group, t.map.active[g] = false ∧ t.map.generation[g] = 0) ∧
    t.lookup = {
      fifo := [], service := none, ready := true
      reply := { tag := 0, via := .notReady, uplink := 0, named := false, strobes := 0 } } ∧
    t.spi = .waiting ∧
    t.events = { pending := 0, mask := 0, record := none, severity := .none, interrupt := false }

/-- An unacknowledged first address ends the attempt with a stop condition and waits 1 ms for the next, the fourth
ends loading; an unacknowledged word or read address ends it at once, and so does the limit of 20 ms; the first check
of a record that fails gives the cause (R3, R4, R5; log entry 22 for a stop condition before SCL and SDA are
released, log entry 30 for the moment from which the 1 ms counts). -/
def Obligations.LoadingFailures : Prop :=
  (∀ s : State, s.control.station = .loading → isRunning s.loader.deadline = true → s.loader.retry = .stopped →
    (s.loader.attempts < 4 → exec (.addressNotAcknowledged .firstAddress) s =
      .next { s with
        loader := { s.loader with bus := [.stop], quarter := 0, cells := 0, retry := .running 10000 } }) ∧
    (4 ≤ s.loader.attempts → ∃ t, exec (.addressNotAcknowledged .firstAddress) s = .next t ∧
      EntersConfigFault .noAcknowledge [.stop] s t) ∧
    (∀ stage, stage ≠ .firstAddress → ∃ t, exec (.addressNotAcknowledged stage) s = .next t ∧
      EntersConfigFault .noAcknowledge [] s t)) ∧
  (∀ s : State, s.control.station = .loading → isRunning s.loader.retry = true →
    exec .readRetryDelayExpiry s = .next { s with
      loader := { s.loader with
        attempts := s.loader.attempts + 1, bus := readAttempt, quarter := 0, cells := 0, retry := .stopped } }) ∧
  (∀ s : State, s.control.station = .loading → isRunning s.loader.deadline = true →
    ∃ t, exec .loadingTimeout s = .next t ∧ EntersConfigFault .noAcknowledge [] s t) ∧
  (∀ (r : Vector Byte 28) (s : State), s.control.station = .loading → isRunning s.loader.deadline = true →
    s.loader.retry = .stopped →
    ((r.toList.map BitVec.toNat).sum % 256 ≠ 0 →
      ∃ t, exec (.recordReceived r) s = .next t ∧ EntersConfigFault .badChecksum [.acknowledge false, .stop] s t) ∧
    ((r.toList.map BitVec.toNat).sum % 256 = 0 → (r[0] ≠ 0x55 ∨ r[1] ≠ 0x47) →
      ∃ t, exec (.recordReceived r) s = .next t ∧ EntersConfigFault .badMagic [.acknowledge false, .stop] s t) ∧
    ((r.toList.map BitVec.toNat).sum % 256 = 0 → r[0] = 0x55 → r[1] = 0x47 → r[2] ≠ 1 →
      ∃ t, exec (.recordReceived r) s = .next t ∧ EntersConfigFault .badVersion [.acknowledge false, .stop] s t) ∧
    ((r.toList.map BitVec.toNat).sum % 256 = 0 → r[0] = 0x55 → r[1] = 0x47 → r[2] = 1 →
      (r[11].extractLsb' 4 2 = 3#2 ∨ r[11].extractLsb' 2 2 = 3#2 ∨ r[11].extractLsb' 0 2 = 3#2) →
      ∃ t, exec (.recordReceived r) s = .next t ∧ EntersConfigFault .badAction [.acknowledge false, .stop] s t))

/-- A good record is handed out and the station enters JOINING: each parameter to its block, the group, weight and
enable of a port to its monitor, whose first cadence window begins; timers and idle count start, a JOIN is queued, and
the own candidate entries with digest and dirty flags follow (R3, R4, R7, R9, R16, R17, R36, R61, R76, R104, R108,
R109; log entry 35 for what a disabled port has seen). -/
def Obligations.GoodRecordEntersJoining : Prop :=
  ∀ (r : Vector Byte 28) (s : State), s.control.station = .loading → isRunning s.loader.deadline = true →
    s.loader.retry = .stopped → s.bus.queue = [] → s.bus.inFlight = none →
    (r.toList.map BitVec.toNat).sum % 256 = 0 → r[0] = 0x55 → r[1] = 0x47 → r[2] = 1 →
    r[11].extractLsb' 4 2 ≠ 3#2 → r[11].extractLsb' 2 2 ≠ 3#2 → r[11].extractLsb' 0 2 ≠ 3#2 →
    ∃ t, exec (.recordReceived r) s = .next t ∧
      t.params = recordParams r ∧
      t.control = { s.control with
        station := .joining, settle := .running (2 * (max 1 r[6].toNat) * 10000), clamp := recordClamped r } ∧
      t.loader = { s.loader with
        bus := [.acknowledge false, .stop], quarter := 0, cells := 0, retry := .stopped, deadline := .stopped } ∧
      t.notices = { s.notices with announce := .running ((max 1 r[6].toNat) * 10000) } ∧
      t.cadenceTimer = .running ((min 64 (max 1 r[8].toNat)) * 10) ∧
      t.errorTimer = .running ((max 1 r[9].toNat) * 10000) ∧
      t.bus = { s.bus with
        recovery := .seek, missed := 0, line := .idle, idleCount := 0
        queue := [{ kind := .join, urgent := false, attempts := 0 }] } ∧
      (∀ p : PortNo, t.ports[p].enabled = (r[19 + p.val]).getLsbD 7 ∧
        t.ports[p].group.val = ((r[19 + p.val]).extractLsb' 4 2).toNat ∧
        t.ports[p].weight = (recordPort r[19 + p.val]).weight ∧
        t.ports[p].condition = (if (r[19 + p.val]).getLsbD 7 then .dark else .off) ∧
        t.ports[p].light = .noLight ∧ t.ports[p].restore = .stopped ∧ t.ports[p].ramp = .stopped ∧
        t.ports[p].step = 0 ∧ t.ports[p].flickers = 0 ∧ t.ports[p].losSeen = s.pins.los[p] ∧
        t.ports[p].transitionSeen = false) ∧
      t.table.rows[s.control.number] = ownRow t ∧ TableFollows s t ∧
      (∀ i : StationNo, i ≠ s.control.number → t.table.rows[i] = s.table.rows[i]) ∧
      t.events.mask = (ofBytes r[17] r[18]).extractLsb' 0 12 ∧ t.events.pending = s.events.pending ∧
      t.events.record = s.events.record ∧
      t.pending = s.pending ∧ t.pins = s.pins ∧ t.graders = s.graders ∧ t.counters = s.counters ∧
      t.peers = s.peers ∧ t.engine = s.engine ∧ t.map = s.map ∧ t.lookup = s.lookup ∧ t.spi = s.spi

/-- The clamped fields of a record, the actions, the weight of an enabled port, the clamp indication and the parameter
checksum (R6, R8, R178). -/
def Obligations.RecordFieldsAreClamped : Prop :=
  ∀ r : Vector Byte 28,
    (recordParams r).bucketCode = r[3].extractLsb' 0 2 ∧
    (recordParams r).seed.toNat = 256 * r[4].toNat + r[5].toNat ∧
    (recordParams r).announce.toNat = max 1 r[6].toNat ∧
    (recordParams r).silenceLimit.toNat = min 15 (max 2 r[7].toNat) ∧
    (recordParams r).cadenceWindow.toNat = min 64 (max 1 r[8].toNat) ∧
    (recordParams r).errorWindow.toNat = max 1 r[9].toNat ∧
    (recordParams r).threshold.toNat = max 1 r[10].toNat ∧
    (recordParams r).cleanWindows.toNat = min 15 (max 1 r[12].toNat) ∧
    (recordParams r).restoreWait.toNat = max 1 r[13].toNat ∧
    (recordParams r).rampSteps.toNat = min 8 (max 1 r[14].toNat) ∧
    (recordParams r).rampInterval.toNat = max 1 r[15].toNat ∧
    (recordParams r).presenceInUse = r[16].getLsbD 0 ∧
    (∀ x ∈ [(Action.report, 0#2), (Action.degrade, 1#2), (Action.dark, 2#2)],
      (r[11].extractLsb' 4 2 = x.2 → (recordParams r).codeAction = x.1) ∧
      (r[11].extractLsb' 2 2 = x.2 → (recordParams r).slipAction = x.1) ∧
      (r[11].extractLsb' 0 2 = x.2 → (recordParams r).frameAction = x.1)) ∧
    (∀ p : PortNo, (recordPort r[19 + p.val]).weight.toNat =
      if (r[19 + p.val]).getLsbD 7 = true then max 1 (r[19 + p.val].toNat % 16) else r[19 + p.val].toNat % 16) ∧
    (recordClamped r = true ↔
      r[6] = 0 ∨ r[7].toNat < 2 ∨ 15 < r[7].toNat ∨ r[8] = 0 ∨ 64 < r[8].toNat ∨ r[9] = 0 ∨ r[10] = 0 ∨
      r[12] = 0 ∨ 15 < r[12].toNat ∨ r[13] = 0 ∨ r[14] = 0 ∨ 8 < r[14].toNat ∨ r[15] = 0 ∨
      ∃ p : PortNo, (r[19 + p.val]).getLsbD 7 = true ∧ r[19 + p.val].toNat % 16 = 0) ∧
    (recordParams r).checksum.toNat =
      (r[3].toNat % 4 + r[4].toNat + r[5].toNat + max 1 r[6].toNat) % 256

/-- The settle timer's expiry opens service: OPERATING, all four dirty flags set, and the engine searches (R10, R137,
R139). -/
def Obligations.SettleExpiryOpensService : Prop :=
  ∀ s : State, s.control.station = .joining → isRunning s.control.settle = true →
    ∃ t, exec .joinSettleTimerExpiry s = .next t ∧
      t.control = { s.control with station := .operating, settle := .stopped } ∧
      SearchFollows s.engine (fun _ => True) s t ∧ CountersBut [.recomputes] s t ∧
      t.table.rows = s.table.rows ∧ t.table.digest = s.table.digest ∧
      t.pending = s.pending ∧ t.pins = s.pins ∧ t.loader = s.loader ∧ t.params = s.params ∧ t.ports = s.ports ∧
      t.cadenceTimer = s.cadenceTimer ∧ t.graders = s.graders ∧ t.errorTimer = s.errorTimer ∧ t.bus = s.bus ∧
      t.notices = s.notices ∧ t.peers = s.peers ∧ t.map = s.map ∧ t.lookup = s.lookup ∧ t.spi = s.spi ∧
      t.events = s.events

/-- QUIET where it is accepted, and an assertion of ATTN, take JOINING and OPERATING to QUIET. An assertion changes
nothing but the level elsewhere and acts at its change alone; a release changes the level alone (R11, R182). -/
def Obligations.QuietRequestsTakeStationOffBus : Prop :=
  ∀ s : State,
    (s.pins.attn = false → (s.control.station = .joining ∨ s.control.station = .operating) →
      ∃ t, exec .attentionAssertion s = .next t ∧ t.pins = { s.pins with attn := true } ∧ t.spi = s.spi ∧
        EntersQuiet false s t) ∧
    (s.pins.attn = false → s.control.station ≠ .joining → s.control.station ≠ .operating →
      exec .attentionAssertion s = .next { s with pins := { s.pins with attn := true } }) ∧
    (s.pins.attn = true → exec .attentionAssertion s = .next s) ∧
    exec .attentionRelease s = .next { s with pins := { s.pins with attn := false } } ∧
    (s.spi = .opened → (s.control.station = .joining ∨ s.control.station = .operating) →
      ∃ t, exec .quiet s = .next t ∧ t.spi = .taken 0x5A [] ∧ t.pins = s.pins ∧ EntersQuiet false s t)

/-- WAKE, where it is accepted, returns to JOINING with a JOIN alone in the queue and the settle timer at 2 × A;
everything else is kept, and no recompute starts (R12, R71). -/
def Obligations.WakeReturnsToJoining : Prop :=
  ∀ s : State, s.spi = .opened → s.control.station = .quiet → s.control.restartPending = false →
    exec .wake s = .next { s with
      spi := .taken 0x5A []
      control := { s.control with
        station := .joining, settle := .running (2 * s.params.announce.toNat * 10000) }
      bus := { s.bus with
        queue := [{ kind := .join, urgent := false, attempts := 0 }]
        inFlight := s.bus.inFlight.map fun f => { f with final := true } } }

/-- RESTART by the state in which it is taken: through a LEAVE from JOINING and OPERATING, after the LEAVE that
remains or at once in QUIET, at once in MUTED and CONFIG FAULT; a second RESTART changes nothing (R14, R163, R166; of
the reset, log entry 32 is for the 20 ms of the loading that follows, log entry 21 for the request then held, log
entry 24 for the score unit and log entry 35 for what a cadence window has seen). -/
def Obligations.RestartByState : Prop :=
  ∀ s : State, s.spi = .opened →
    ((s.control.station = .joining ∨ s.control.station = .operating) →
      ∃ t, exec .restart s = .next t ∧ t.spi = .taken 0x5A [] ∧ t.pins = s.pins ∧ EntersQuiet true s t) ∧
    (s.control.station = .quiet → s.control.restartPending = true →
      exec .restart s = .next { s with spi := .taken 0x5A [] }) ∧
    (s.control.station = .quiet → s.control.restartPending = false →
      (s.bus.queue.any (fun e => e.kind == .leave) = true ∨ ∃ f, s.bus.inFlight = some f ∧ f.entry.kind = .leave) →
      exec .restart s = .next { s with
        spi := .taken 0x5A [], control := { s.control with restartPending := true } }) ∧
    (s.control.station = .quiet → s.control.restartPending = false →
      s.bus.queue.any (fun e => e.kind == .leave) = false →
      (∀ f, s.bus.inFlight = some f → f.entry.kind ≠ .leave) →
      ∃ t, exec .restart s = .next t ∧ t.spi = .taken 0x5A [] ∧ Resets s t) ∧
    ((s.control.station = .muted ∨ s.control.station = .configFault) →
      ∃ t, exec .restart s = .next t ∧ t.spi = .taken 0x5A [] ∧ Resets s t)

/-! ### The inspection port -/

/-- A fall of CS_N opens a transaction and a rise ends it, in every state; a command whose transaction is not open is
not taken; a byte that names no command is answered BAD ARGUMENT and does nothing. On MISO the host reads fill until
the command is taken, then the status byte and the reply data, then fill, most significant bit first, and a rise of
SCK does not change it (R164, R165, R179; that a command is told whole is the model's form, log entry 12, and the fill
with no transaction open its choice, log entry 31). -/
def Obligations.TransactionsOpenAndEnd : Prop :=
  (∀ s : State,
    exec .spiTransactionOpen s = .next { s with spi := .opened } ∧
    exec .spiTransactionEnd s = .next { s with spi := .waiting } ∧
    (∀ c, isInspection c = true → s.spi ≠ .opened → exec c s = .next s) ∧
    (∀ byte, s.spi = .opened → s.control.station ≠ .loading →
      exec (.unknownCommand byte) s = .next { s with spi := .taken 0x61 [] })) ∧
  (∀ (place : Nat) (status : Byte) (data : List Byte),
    misoByte .waiting place = 0xFF ∧ misoByte .opened place = 0xFF ∧ misoByte (.taken status data) 0 = status ∧
    (∀ byte, data[place]? = some byte → misoByte (.taken status data) (place + 1) = byte) ∧
    (data.length ≤ place → misoByte (.taken status data) (place + 1) = 0xFF)) ∧
  ∀ (taken : Nat) (t : Transaction),
    (∀ place, (place < taken → transactionByte taken t place = 0xFF) ∧
      (taken ≤ place → transactionByte taken t place = misoByte t (place - taken))) ∧
    (∀ bytes : List Byte, misoRead taken t SpiShift.start (bytes.flatMap byteEdges) =
      (List.range bytes.length).flatMap fun place =>
        [7, 6, 5, 4, 3, 2, 1, 0].map fun k => (transactionByte taken t place).getLsbD k) ∧
    (∀ (p : SpiShift) (mosi : Bool), misoLevel taken t (shiftEdge p (.rise mosi)) = misoLevel taken t p)

/-- The checks of R165 in their order, for every inspection command: what is answered BUSY or REFUSED does nothing and
has no reply data, and the rest is ACCEPTED. -/
def Obligations.ChecksDecideStatus : Prop :=
  ∀ (c : Instr) (s : State), isInspection c = true → s.spi = .opened →
    (s.control.station = .loading → exec c s = .next { s with spi := .taken 0x5B [] }) ∧
    (s.control.station ≠ .loading → argumentBad c = true → exec c s = .next { s with spi := .taken 0x61 [] }) ∧
    (s.control.station ≠ .loading → argumentBad c = false → namesOffPort s c = true →
      exec c s = .next { s with spi := .taken 0x62 [] }) ∧
    (s.control.station ≠ .loading → argumentBad c = false → namesOffPort s c = false → allowedNow s c = false →
      exec c s = .next { s with spi := .taken 0x63 [] }) ∧
    (s.control.station ≠ .loading → argumentBad c = false → namesOffPort s c = false → allowedNow s c = true →
      ∃ t data, exec c s = .next t ∧ t.spi = .taken 0x5A data)

/-- Where the reply of STATUS holds what, and the codes of station state, fault cause and severity (R113, R149, R167,
R179; that the bits it leaves unused read 0 is log entry 34). -/
def Obligations.StatusReplyPlaces : Prop :=
  [StationState.configFault, .joining, .operating, .quiet, .muted].map stationCode = [1, 2, 3, 4, 5] ∧
  [none, some FaultCause.noAcknowledge, some .badChecksum, some .badMagic, some .badVersion, some .badAction].map
    causeCode = [0, 1, 2, 3, 4, 5] ∧
  [Severity.none, .advisory, .action, .fatal].map severityCode = [0, 1, 2, 3] ∧
  ∀ s : State, s.spi = .opened → s.control.station ≠ .loading →
    ∃ data, exec .status s = .next { s with spi := .taken 0x5A data } ∧
      data[0]? = some (stationCode s.control.station) ∧
      data[1]? = some (BitVec.ofNat 8 s.control.number.val) ∧
      data[2]? = some (causeCode s.control.cause) ∧
      (∀ f, data[3]? = some f → f.getLsbD 0 = s.control.clamp ∧ f.getLsbD 1 = s.control.restartPending ∧
        f.getLsbD 2 = s.pins.attn ∧ f.getLsbD 3 = s.events.interrupt) ∧
      data[4]? = some (highByte s.table.digest) ∧ data[5]? = some (lowByte s.table.digest) ∧
      (∀ f, data[6]? = some f → ∀ g : Group, f.getLsbD g.val = s.table.dirty[g]) ∧
      data[7]? = some (BitVec.ofNat 8 (s.peers.toList.countP fun p => p.state == .absent)) ∧
      data[8]? = some (BitVec.ofNat 8 (s.peers.toList.countP fun p => p.state == .present)) ∧
      data[9]? = some (BitVec.ofNat 8 (s.peers.toList.countP fun p => p.state == .silent)) ∧
      data[10]? = some (BitVec.ofNat 8 (s.peers.toList.countP fun p => p.state == .mismatch)) ∧
      (s.engine.run = .idle → data[11]? = some 0 ∧ data[12]? = some 0 ∧ data[13]? = some 0) ∧
      (∀ g b, s.engine.run = .running g b → data[11]? = some (BitVec.ofNat 8 (128 + g.val)) ∧
        data[12]? = some (BitVec.ofNat 8 (b.val / 256)) ∧ data[13]? = some (BitVec.ofNat 8 (b.val % 256))) ∧
      data[14]? = some (BitVec.ofNat 8 s.engine.pointer.val) ∧
      (∀ g : Group,
        (∀ f, data[15 + 3 * g.val]? = some f → f.getLsbD 0 = s.map.active[g] ∧
          f.getLsbD 1 = s.engine.retried[g] ∧ f.getLsbD 2 = s.engine.fault[g]) ∧
        data[16 + 3 * g.val]? = some (highByte s.map.generation[g]) ∧
        data[17 + 3 * g.val]? = some (lowByte s.map.generation[g])) ∧
      data[27]? = some ((s.events.pending.extractLsb' 8 4).setWidth 8) ∧
      data[28]? = some (s.events.pending.extractLsb' 0 8) ∧
      data[29]? = some (severityCode s.events.severity) ∧ data.length = 30

/-- Where the reply of READ UPLINK holds what, and the codes of light state, condition and action (R34, R50, R178,
R179; that the bits it leaves unused read 0 is log entry 34). -/
def Obligations.UplinkReplyPlaces : Prop :=
  [LightState.noLight, .light, .flicker].map lightCode = [0, 1, 2] ∧
  [Condition.off, .dark, .holding, .ramping, .lit, .degraded, .drained].map conditionCode = [0, 1, 2, 3, 4, 5, 6] ∧
  [Action.report, .degrade, .dark].map actionCode = [0, 1, 2] ∧
  ∀ (s : State) (p : PortNo), s.spi = .opened → s.control.station ≠ .loading →
    ∃ data, exec (.readUplink (BitVec.ofNat 8 p.val)) s = .next { s with spi := .taken 0x5A data } ∧
      data = [BitVec.ofNat 8 (128 * s.ports[p].enabled.toNat + 16 * s.ports[p].group.val + s.ports[p].weight.toNat),
        lightCode s.ports[p].light, BitVec.ofNat 8 (conditionCode s.ports[p].condition).toNat,
        BitVec.ofNat 8 (effectiveWeight s.params.rampSteps.toNat s.ports[p]).toNat,
        BitVec.ofNat 8 s.ports[p].step,
        BitVec.ofNat 8 ((isRunning s.ports[p].restore).toNat + 2 * (isRunning s.ports[p].ramp).toNat),
        highByte s.ports[p].flickers, lowByte s.ports[p].flickers,
        s.graders[p].code, s.graders[p].slip, s.graders[p].frame,
        BitVec.ofNat 8 (4 * s.graders[p].codeMark.toNat + 2 * s.graders[p].slipMark.toNat +
          s.graders[p].frameMark.toNat),
        BitVec.ofNat 8 s.graders[p].clean, s.params.threshold,
        BitVec.ofNat 8 (16 * (actionCode s.params.codeAction).toNat + 4 * (actionCode s.params.slipAction).toNat +
          (actionCode s.params.frameAction).toNat),
        s.params.cleanWindows]

/-- Where the replies of READ PEER, READ CANDIDATE, READ ENTRY and READ EVENTS hold what, byte by byte, and the codes
of peer state, mismatch source, candidate condition and event kind. A candidate is RAMPING, LIT or DEGRADED with a
weight of at least 1; it contributes 16 × group + weight, every other entry 0, and the view digest is the CRC-16 of
the contributions (R102, R103, R107, R111, R112, R148, R169, R179, section 10.4; that the bits R179 leaves unused read
0 is log entry 34). -/
def Obligations.TableReplyPlaces : Prop :=
  [PeerState.absent, .present, .silent, .mismatch, .localEntry].map peerCode = [0, 1, 2, 3, 4] ∧
  [none, some MismatchSource.byJoin, some .byChecksum].map sourceCode = [0, 1, 2] ∧
  [some Condition.off, some .dark, some .holding, some .ramping, some .lit, some .degraded, some .drained, none].map
    candidateConditionCode = [0, 1, 2, 3, 4, 5, 6, 7] ∧
  [EventKind.uplinkDark, .uplinkDegraded, .uplinkRestored, .errorReport, .peerLost, .peerMismatch, .viewDivergence,
    .busGiveUp, .mapParity, .mapFault, .stationClash, .configFault].map eventNumber = List.range 12 ∧
  (∀ c : Candidate,
    (isCandidate c = true ↔
      (c.condition = some .ramping ∨ c.condition = some .lit ∨ c.condition = some .degraded) ∧ 1 ≤ c.weight.toNat) ∧
    (∀ g : Group, isCandidateOf g c = true ↔ isCandidate c = true ∧ c.group = g) ∧
    (isCandidate c = true → (contribution c).toNat = 16 * c.group.val + c.weight.toNat) ∧
    (isCandidate c = false → contribution c = 0)) ∧
  (∀ rows : Vector (Vector Candidate 8) 16,
    viewDigest rows = crc16 ((List.finRange 128).map fun u => contribution (candidateAt rows u))) ∧
  ∀ s : State, s.spi = .opened → s.control.station ≠ .loading →
    (∀ i : StationNo, ∃ data, exec (.readPeer (BitVec.ofNat 8 i.val)) s = .next { s with spi := .taken 0x5A data } ∧
      data[0]? = some (peerCode s.peers[i].state) ∧ data[1]? = some (sourceCode s.peers[i].source) ∧
      data[2]? = some s.peers[i].lastSequence ∧
      (∀ f, data[3]? = some f → f.getLsbD 0 = isRunning s.peers[i].silence ∧
        f.getLsbD 1 = s.peers[i].lastChecksum.isSome ∧ f.getLsbD 2 = s.peers[i].lastDigest.isSome ∧
        f.getLsbD 3 = s.peers[i].report.isSome ∧
        f.getLsbD 4 = (s.params.presenceInUse && s.pins.presence[i]) ∧
        f.getLsbD 5 = s.params.presenceInUse) ∧
      data[4]? = some (s.peers[i].lastChecksum.getD 0) ∧
      data[5]? = some (highByte (s.peers[i].lastDigest.getD 0)) ∧
      data[6]? = some (lowByte (s.peers[i].lastDigest.getD 0)) ∧
      data[7]? = some (BitVec.ofNat 8 s.peers[i].divergence) ∧
      data[8]? = some (highByte s.peers[i].accepted) ∧ data[9]? = some (lowByte s.peers[i].accepted) ∧
      data[10]? = some (highByte s.peers[i].stale) ∧ data[11]? = some (lowByte s.peers[i].stale) ∧
      (∀ facts, s.peers[i].report = some facts →
        (∀ p : PortNo, data[12 + p.val]? =
          some (BitVec.ofNat 8 (16 * (conditionCode facts[p].condition).toNat + facts[p].weight.toNat))) ∧
        ∀ high, data[20]? = some high → ∀ low, data[21]? = some low → ∀ p : PortNo,
          (256 * high.toNat + low.toNat) / 4 ^ (7 - p.val) % 4 = facts[p].group.val) ∧
      (s.peers[i].report = none → ∀ k, 12 ≤ k → k ≤ 21 → data[k]? = some 0) ∧ data.length = 22) ∧
    (∀ u : UplinkId, ∃ data, exec (.readCandidate (BitVec.ofNat 8 u.val)) s =
        .next { s with spi := .taken 0x5A data } ∧
      data = [BitVec.ofNat 8
          (128 * ((candidateAt s.table.rows u).source == .peerReport).toNat +
            (isCandidate (candidateAt s.table.rows u)).toNat),
        candidateConditionCode (candidateAt s.table.rows u).condition,
        BitVec.ofNat 8 (candidateAt s.table.rows u).group.val,
        BitVec.ofNat 8 (candidateAt s.table.rows u).weight.toNat, contribution (candidateAt s.table.rows u)]) ∧
    (∀ (g : Group) (b : Bucket) (shadow : Bool), ∃ data,
      exec (.readEntry (BitVec.ofNat 8 g.val) (BitVec.ofNat 16 b.val) (BitVec.ofNat 8 shadow.toNat)) s =
        .next { s with spi := .taken 0x5A data } ∧
      data = [BitVec.ofNat 8 (s.map.active[g] ^^ shadow).toNat, highByte s.map.generation[g],
          lowByte s.map.generation[g]] ++
        match readWord (storedWord g (s.map.active[g] ^^ shadow) b s.map) with
        | some (primary, backup) => [0, optionalId primary, optionalId backup]
        | none => [1, 0xFF, 0xFF]) ∧
    (∃ data, exec .readEvents s = .next { s with spi := .taken 0x5A data } ∧
      data[0]? = some ((s.events.pending.extractLsb' 8 4).setWidth 8) ∧
      data[1]? = some (s.events.pending.extractLsb' 0 8) ∧
      data[2]? = some ((s.events.mask.extractLsb' 8 4).setWidth 8) ∧
      data[3]? = some (s.events.mask.extractLsb' 0 8) ∧
      (s.events.record = none → data[4]? = some 0xFF ∧ data[5]? = some 0xFF) ∧
      (∀ e, s.events.record = some e → data[4]? = some (BitVec.ofNat 8 (eventNumber e.kind)) ∧
        data[5]? = some (e.subject.getD 0xFF)) ∧
      data[6]? = some (severityCode s.events.severity) ∧
      data[7]? = some (if s.events.interrupt then 1 else 0) ∧ data.length = 8)

/-- READ COUNTERS returns the counters in the order of the table of R168, high byte first. -/
def Obligations.CountersReplyPlaces : Prop :=
  [Counter.sentJoin, .sentState, .sentAlert, .sentSolicit, .sentLeave, .collisionAborts, .giveUps, .receivedJoin,
    .receivedState, .receivedAlert, .receivedSolicit, .receivedLeave, .crcFailures, .codeViolations, .truncations,
    .staleNotices, .unseatedNotices, .recomputes, .flips, .parityFailures, .flickers].map counterIndex =
    List.finRange 21 ∧
  ∀ s : State, s.spi = .opened → s.control.station ≠ .loading →
    ∃ data, exec .readCounters s = .next { s with spi := .taken 0x5A data } ∧ data.length = 42 ∧
      ∀ c, data[2 * (counterIndex c).val]? = some (highByte (counterOf c s)) ∧
        data[2 * (counterIndex c).val + 1]? = some (lowByte (counterOf c s))

/-- CLEAR EVENTS clears the named flags and empties the record when no flag remains; SET MASK replaces the mask; each
brings interrupt and severity to agree and changes nothing else (R170, R171, R176). The pin INT_N is driven low while
the interrupt output is asserted, and released while it is released (R182). -/
def Obligations.EventCommandsAct : Prop :=
  (∀ e : EventUnit, (e.interrupt = true → interruptPin e = .drivenLow) ∧
    (e.interrupt = false → interruptPin e = .released)) ∧
  ∀ (mask : Half) (s : State), s.spi = .opened → s.control.station ≠ .loading →
    (∃ t, exec (.clearEvents mask) s = .next t ∧
      t = { s with spi := .taken 0x5A [], events := t.events } ∧
      (∀ k, isPending t.events.pending k = (isPending s.events.pending k && !mask.getLsbD (eventNumber k))) ∧
      t.events.mask = s.events.mask ∧
      ((∀ k, isPending t.events.pending k = false) → t.events.record = none) ∧
      ((∃ k, isPending t.events.pending k = true) → t.events.record = s.events.record) ∧
      Agrees t.events) ∧
    (∃ t, exec (.setMask mask) s = .next t ∧
      t = { s with spi := .taken 0x5A [], events := t.events } ∧
      t.events.mask = mask.extractLsb' 0 12 ∧ t.events.pending = s.events.pending ∧
      t.events.record = s.events.record ∧
      Agrees t.events) ∧
    [EventKind.uplinkDark, .uplinkDegraded, .uplinkRestored, .errorReport, .peerLost, .peerMismatch, .viewDivergence,
      .busGiveUp, .mapParity, .mapFault, .stationClash, .configFault].map eventSeverity =
      [.action, .advisory, .advisory, .advisory, .action, .action, .advisory, .advisory, .advisory, .fatal, .fatal,
        .fatal]

/-- DRAIN of a port that is not OFF: DRAINED, its timers stopped and k at 0, an ALERT demanded, no event raised; a
DRAINED port stays as it is (R28, R31, R49). -/
def Obligations.DrainTakesPortOut : Prop :=
  ∀ (p : PortNo) (s : State), s.spi = .opened → receiveOn s.control.station = true →
    (s.ports[p].condition = .drained →
      exec (.drain (BitVec.ofNat 8 p.val)) s = .next { s with spi := .taken 0x5A [] }) ∧
    (s.ports[p].condition ≠ .off → s.ports[p].condition ≠ .drained →
      ∃ t, exec (.drain (BitVec.ofNat 8 p.val)) s = .next t ∧ t.spi = .taken 0x5A [] ∧
        t.ports[p] = { s.ports[p] with
          condition := .drained, restore := .stopped, ramp := .stopped, step := 0 } ∧
        (∀ q : PortNo, q ≠ p → t.ports[q] = s.ports[q]) ∧
        t.graders[p] = { s.graders[p] with clean := 0 } ∧ GradersFollow s t ∧
        DemandsReport true s t ∧ t.events = s.events ∧ MonitorFrame s t ∧ CountersBut [.recomputes] s t ∧
        t.pins = s.pins ∧ t.cadenceTimer = s.cadenceTimer ∧ t.errorTimer = s.errorTimer)

/-- UNDRAIN of a DRAINED port: RAMPING at k = 1 or LIT where light is arriving, with a STATE demanded, else DARK with
nothing demanded (R29, R31, R32). -/
def Obligations.UndrainReturnsPort : Prop :=
  ∀ (p : PortNo) (s : State), s.spi = .opened → receiveOn s.control.station = true →
    s.ports[p].condition = .drained →
    ∃ t, exec (.undrain (BitVec.ofNat 8 p.val)) s = .next t ∧ t.spi = .taken 0x5A [] ∧
      (s.ports[p].light ≠ .noLight → 2 ≤ s.params.rampSteps.toNat →
        t.ports[p] = { s.ports[p] with
          condition := .ramping, step := 1, restore := .stopped
          ramp := .running (s.params.rampInterval.toNat * 1000000) } ∧
        DemandsReport false s t ∧ t.events = s.events) ∧
      (s.ports[p].light ≠ .noLight → s.params.rampSteps.toNat = 1 →
        t.ports[p] = { s.ports[p] with condition := .lit, step := 0, restore := .stopped, ramp := .stopped } ∧
        DemandsReport false s t ∧ Raises [raiseAbout .uplinkRestored p.val] s t) ∧
      (s.ports[p].light = .noLight →
        t.ports[p] = { s.ports[p] with condition := .dark, step := 0, restore := .stopped, ramp := .stopped } ∧
        DemandsNothing s t ∧ t.events = s.events) ∧
      (∀ q : PortNo, q ≠ p → t.ports[q] = s.ports[q]) ∧ GradersFollow s t ∧ MonitorFrame s t ∧
      CountersBut [.recomputes] s t ∧ t.pins = s.pins ∧ t.cadenceTimer = s.cadenceTimer ∧ t.errorTimer = s.errorTimer

/-! ### The light monitor -/

/-- The judgement of a cadence window for every port, by the tables of R17, R18 and R22: the whole monitor as it is
left, with the flickers counted, and the ALERT and the raises of the ports that lost light; with none, nothing is
demanded. A DEGRADED port that loses light loses its clean count (R31, R32, R47, R168, R174; log entry 1 for the timer,
and log entry 10 for one search after the moves of all ports). -/
def Obligations.CadenceWindowJudgesPorts : Prop :=
  ∀ s : State, isRunning s.cadenceTimer = true →
    ∃ t, exec .cadenceWindowExpiry s = .next t ∧
      t.cadenceTimer = .running (s.params.cadenceWindow.toNat * 10) ∧
      (∀ p : PortNo, s.ports[p].enabled = false → t.ports[p] = s.ports[p]) ∧
      (∀ p : PortNo, s.ports[p].enabled = true → s.ports[p].losSeen = false → s.ports[p].transitionSeen = true →
        (s.ports[p].condition = .dark → t.ports[p] = { s.ports[p] with
          light := .light, condition := .holding, restore := .running (s.params.restoreWait.toNat * 1000000)
          losSeen := s.pins.los[p], transitionSeen := false }) ∧
        (s.ports[p].condition ≠ .dark → t.ports[p] = { s.ports[p] with
          light := .light, losSeen := s.pins.los[p], transitionSeen := false })) ∧
      (∀ p : PortNo, s.ports[p].enabled = true → (s.ports[p].losSeen = true ∨ s.ports[p].transitionSeen = false) →
        (s.ports[p].light = .light → t.ports[p] = { s.ports[p] with
          light := .flicker, flickers := saturatingHalf s.ports[p].flickers
          losSeen := s.pins.los[p], transitionSeen := false }) ∧
        (s.ports[p].light = .flicker →
          (s.ports[p].condition = .holding ∨ carriesTraffic s.ports[p].condition = true →
            t.ports[p] = { s.ports[p] with
              light := .noLight, condition := .dark, restore := .stopped, ramp := .stopped, step := 0
              losSeen := s.pins.los[p], transitionSeen := false }) ∧
          (s.ports[p].condition ≠ .holding → carriesTraffic s.ports[p].condition = false →
            t.ports[p] = { s.ports[p] with
              light := .noLight, losSeen := s.pins.los[p], transitionSeen := false }) ∧
          (carriesTraffic s.ports[p].condition = true → DemandsReport true s t)) ∧
        (s.ports[p].light = .noLight → t.ports[p] = { s.ports[p] with
          losSeen := s.pins.los[p], transitionSeen := false })) ∧
      ((∀ p : PortNo, windowDarkens s.ports[p] = false) → DemandsNothing s t) ∧
      GradersFollow s t ∧
      Raises ((List.finRange 8).filterMap fun p =>
        if windowDarkens s.ports[p] then some (raiseAbout .uplinkDark p.val) else none) s t ∧
      (counterOf .flickers t).toNat = min 65535 ((counterOf .flickers s).toNat + (List.finRange 8).countP fun p =>
        unlitWindow s.ports[p] && s.ports[p].light == .light) ∧
      MonitorFrame s t ∧ CountersBut [.recomputes, .flickers] s t ∧
      t.pins = s.pins ∧ t.errorTimer = s.errorTimer ∧ t.spi = s.spi

/-- An assertion of LOS on an enabled port puts its light state into NO LIGHT at once, without a flicker, with the
effect of light loss, and the clean count of a DEGRADED port becomes 0; where the light state was NO LIGHT already,
and on a disabled port, only the level and what the window has seen change. A release changes the level alone; a
cadence transition its level and what the window has seen (R17, R19, R22 to R27, R31, R32, R47). -/
def Obligations.MonitorInputsChange : Prop :=
  ∀ (p : PortNo) (s : State),
    (∃ t, exec (.cadenceTransition p) s = .next t ∧ t = { s with pins := t.pins, ports := t.ports } ∧
      t.pins = { s.pins with cadence := s.pins.cadence.set p (!s.pins.cadence[p]) } ∧
      (isRunning s.cadenceTimer = true → s.ports[p].enabled = true →
        t.ports[p] = { s.ports[p] with transitionSeen := true }) ∧
      ((isRunning s.cadenceTimer = false ∨ s.ports[p].enabled = false) → t.ports = s.ports) ∧
      ∀ q : PortNo, q ≠ p → t.ports[q] = s.ports[q]) ∧
    exec (.losRelease p) s = .next { s with pins := { s.pins with los := s.pins.los.set p false } } ∧
    (s.pins.los[p] = false →
    (isRunning s.cadenceTimer = true → s.ports[p].enabled = true → s.ports[p].light ≠ .noLight →
      ∃ t, exec (.losAssertion p) s = .next t ∧
        (s.ports[p].condition = .holding ∨ carriesTraffic s.ports[p].condition = true →
          t.ports[p] = { s.ports[p] with
            light := .noLight, losSeen := true, condition := .dark, restore := .stopped, ramp := .stopped
            step := 0 }) ∧
        (s.ports[p].condition ≠ .holding → carriesTraffic s.ports[p].condition = false →
          t.ports[p] = { s.ports[p] with light := .noLight, losSeen := true } ∧ DemandsNothing s t ∧
          t.events = s.events) ∧
        (s.ports[p].condition = .holding → DemandsNothing s t ∧ t.events = s.events) ∧
        (carriesTraffic s.ports[p].condition = true →
          Raises [raiseAbout .uplinkDark p.val] s t ∧ DemandsReport true s t) ∧
        (∀ q : PortNo, q ≠ p → t.ports[q] = s.ports[q]) ∧ GradersFollow s t ∧
        t.pins = { s.pins with los := s.pins.los.set p true } ∧
        MonitorFrame s t ∧ CountersBut [.recomputes] s t ∧ t.cadenceTimer = s.cadenceTimer ∧
        t.errorTimer = s.errorTimer ∧ t.spi = s.spi) ∧
    ((isRunning s.cadenceTimer = false ∨ s.ports[p].enabled = false) →
      exec (.losAssertion p) s = .next { s with pins := { s.pins with los := s.pins.los.set p true } }) ∧
    (isRunning s.cadenceTimer = true → s.ports[p].enabled = true → s.ports[p].light = .noLight →
      exec (.losAssertion p) s = .next { s with
        pins := { s.pins with los := s.pins.los.set p true }
        ports := s.ports.set p { s.ports[p] with losSeen := true } }))

/-- The expiries of the restore and the ramp timer: HOLDING to RAMPING at k = 1, or to LIT when R = 1, with a STATE
demanded; RAMPING a step up, with a STATE where the weight changes, or to LIT when k reaches R, with UPLINK RESTORED;
the graders stay but for the clean counts of ports that are not DEGRADED (R23, R24, R31, R32, R35; log entry 11 for the
STATE at LIT). -/
def Obligations.RestoreAndRampExpiries : Prop :=
  ∀ (p : PortNo) (s : State),
    (s.ports[p].condition = .holding → isRunning s.ports[p].restore = true →
      ∃ t, exec (.restoreTimerExpiry p) s = .next t ∧
        (2 ≤ s.params.rampSteps.toNat → t.ports[p] = { s.ports[p] with
          condition := .ramping, step := 1, restore := .stopped
          ramp := .running (s.params.rampInterval.toNat * 1000000) } ∧ t.events = s.events) ∧
        (s.params.rampSteps.toNat = 1 → t.ports[p] = { s.ports[p] with
          condition := .lit, step := 0, restore := .stopped, ramp := .stopped } ∧
          Raises [raiseAbout .uplinkRestored p.val] s t) ∧
        DemandsReport false s t ∧ (∀ q : PortNo, q ≠ p → t.ports[q] = s.ports[q]) ∧ GradersFollow s t ∧
        MonitorFrame s t ∧ CountersBut [.recomputes] s t ∧ t.pins = s.pins ∧ t.cadenceTimer = s.cadenceTimer ∧
        t.errorTimer = s.errorTimer ∧ t.spi = s.spi) ∧
    (s.ports[p].condition = .ramping → isRunning s.ports[p].ramp = true →
      ∃ t, exec (.rampTimerExpiry p) s = .next t ∧
        (s.ports[p].step + 1 < s.params.rampSteps.toNat →
          t.ports[p] = { s.ports[p] with
            step := s.ports[p].step + 1, ramp := .running (s.params.rampInterval.toNat * 1000000) } ∧
          t.events = s.events ∧
          (effectiveWeight s.params.rampSteps.toNat t.ports[p] ≠
              effectiveWeight s.params.rampSteps.toNat s.ports[p] → DemandsReport false s t) ∧
          (effectiveWeight s.params.rampSteps.toNat t.ports[p] =
              effectiveWeight s.params.rampSteps.toNat s.ports[p] → DemandsNothing s t)) ∧
        (s.ports[p].step + 1 = s.params.rampSteps.toNat →
          t.ports[p] = { s.ports[p] with condition := .lit, step := 0, restore := .stopped, ramp := .stopped } ∧
          Raises [raiseAbout .uplinkRestored p.val] s t ∧ DemandsReport false s t) ∧
        (∀ q : PortNo, q ≠ p → t.ports[q] = s.ports[q]) ∧ GradersFollow s t ∧
        MonitorFrame s t ∧ CountersBut [.recomputes] s t ∧ t.pins = s.pins ∧ t.cadenceTimer = s.cadenceTimer ∧
        t.errorTimer = s.errorTimer ∧ t.spi = s.spi)

/-- The effective weight of a port (R20, R123): the table of R20, its bounds, and its growth along the ramp. -/
def Obligations.EffectiveWeights : Prop :=
  ∀ (p : Port) (r : Nat), 1 ≤ p.weight.toNat → 1 ≤ r → r ≤ 8 →
    (p.condition = .lit → effectiveWeight r p = p.weight) ∧
    (p.condition = .ramping → 1 ≤ p.step → p.step < r →
      (effectiveWeight r p).toNat = (p.weight.toNat * p.step + r - 1) / r ∧
      1 ≤ (effectiveWeight r p).toNat ∧ (effectiveWeight r p).toNat ≤ p.weight.toNat ∧
      (effectiveWeight r p).toNat ≤ (effectiveWeight r { p with step := p.step + 1 }).toNat) ∧
    (p.condition = .degraded → (effectiveWeight r p).toNat = max 1 (p.weight.toNat / 2) ∧
      (2 ≤ p.weight.toNat → (effectiveWeight r p).toNat < p.weight.toNat)) ∧
    (carriesTraffic p.condition = false → effectiveWeight r p = 0)

/-! ### The error grader -/

/-- A counter crosses at the pulse that makes it equal to T, and at no other pulse of its window (R40). -/
def Obligations.CounterCrossesOnce : Prop :=
  ∀ (threshold : Byte) (n : Nat), threshold ≠ 0 →
    (Nat.repeat saturatingByte n 0).toNat = min n 255 ∧
    crosses threshold (Nat.repeat saturatingByte n 0) = decide (n + 1 = threshold.toNat) ∧
    ∀ (kind : ErrorKind) (g : Grader), errorCount kind g = Nat.repeat saturatingByte n 0 →
      (∀ k, k ≠ kind → errorCount k (countPulse kind threshold g) = errorCount k g ∧
        markOf k (countPulse kind threshold g) = markOf k g) ∧
      errorCount kind (countPulse kind threshold g) = Nat.repeat saturatingByte (n + 1) 0 ∧
      markOf kind (countPulse kind threshold g) = (markOf kind g || decide (n + 1 = threshold.toNat))

/-- An error pulse: the counter of its kind rises, to at most 255; where it does not cross, and for a disabled port,
nothing but the port's counters and marks changes; a crossing on an enabled port sets the mark, raises ERROR REPORT
and acts by the table of R41, with a STATE for a DEGRADE crossing only where the weight changes. While the grader has
not started a pulse changes nothing (R31, R35 to R44). -/
def Obligations.ErrorPulseCountsAndCrosses : Prop :=
  (∀ (p : PortNo) (kind : ErrorKind) (s : State), receiveOn s.control.station = false →
    exec (.errorPulse p kind) s = .next s) ∧
  ∀ (p : PortNo) (kind : ErrorKind) (s : State), receiveOn s.control.station = true →
    ∃ t, exec (.errorPulse p kind) s = .next t ∧
      (errorCount kind t.graders[p]).toNat = min 255 ((errorCount kind s.graders[p]).toNat + 1) ∧
      (∀ k, k ≠ kind → errorCount k t.graders[p] = errorCount k s.graders[p] ∧
        markOf k t.graders[p] = markOf k s.graders[p]) ∧
      (markOf kind t.graders[p] =
        (markOf kind s.graders[p] ||
          decide ((errorCount kind s.graders[p]).toNat + 1 = s.params.threshold.toNat))) ∧
      (((errorCount kind s.graders[p]).toNat + 1 ≠ s.params.threshold.toNat ∨ s.ports[p].enabled = false) →
        t = { s with graders := t.graders } ∧ t.graders[p].clean = s.graders[p].clean ∧
        ∀ q : PortNo, q ≠ p → t.graders[q] = s.graders[q]) ∧
      ((errorCount kind s.graders[p]).toNat + 1 = s.params.threshold.toNat → s.ports[p].enabled = true →
        (actionOf kind s.params = .report → t.ports = s.ports ∧ DemandsNothing s t ∧
          (s.ports[p].condition = .degraded → t.graders[p].clean = s.graders[p].clean)) ∧
        (actionOf kind s.params ≠ .report → s.ports[p].condition = .holding →
          t.ports[p] = { s.ports[p] with restore := .running (s.params.restoreWait.toNat * 1000000) } ∧
          DemandsNothing s t) ∧
        (actionOf kind s.params = .degrade → (s.ports[p].condition = .ramping ∨ s.ports[p].condition = .lit) →
          t.ports[p] = { s.ports[p] with
            condition := .degraded, restore := .stopped, ramp := .stopped, step := 0 } ∧
          t.graders[p].clean = 0 ∧
          Raises [raiseAbout .errorReport p.val, raiseAbout .uplinkDegraded p.val] s t ∧
          (effectiveWeight s.params.rampSteps.toNat t.ports[p] ≠
            effectiveWeight s.params.rampSteps.toNat s.ports[p] → DemandsReport false s t) ∧
          (effectiveWeight s.params.rampSteps.toNat t.ports[p] =
            effectiveWeight s.params.rampSteps.toNat s.ports[p] → DemandsNothing s t)) ∧
        (actionOf kind s.params = .degrade → s.ports[p].condition = .degraded →
          t.ports[p] = s.ports[p] ∧ t.graders[p].clean = 0 ∧ DemandsNothing s t) ∧
        (actionOf kind s.params = .dark → carriesTraffic s.ports[p].condition = true →
          t.ports[p] = { s.ports[p] with
            condition := .dark, restore := .stopped, ramp := .stopped, step := 0 } ∧
          t.graders[p].clean = 0 ∧ DemandsReport true s t ∧
          Raises [raiseAbout .errorReport p.val, raiseAbout .uplinkDark p.val] s t) ∧
        ((actionOf kind s.params = .report ∨ s.ports[p].condition = .holding ∨
            (actionOf kind s.params = .degrade ∧ s.ports[p].condition = .degraded) ∨ s.ports[p].condition = .off ∨
            s.ports[p].condition = .dark ∨ s.ports[p].condition = .drained) →
          Raises [raiseAbout .errorReport p.val] s t) ∧
        (s.ports[p].condition = .off ∨ s.ports[p].condition = .dark ∨ s.ports[p].condition = .drained →
          t.ports[p] = s.ports[p] ∧ DemandsNothing s t) ∧
        (t.ports[p].condition ≠ .degraded → t.graders[p].clean = 0) ∧
        (∀ q : PortNo, q ≠ p → t.ports[q] = s.ports[q] ∧ t.graders[q] =
          if s.ports[q].condition = .degraded then s.graders[q] else { s.graders[q] with clean := 0 }) ∧
        MonitorFrame s t ∧ CountersBut [.recomputes] s t ∧ t.pins = s.pins ∧ t.cadenceTimer = s.cadenceTimer ∧
        t.errorTimer = s.errorTimer ∧ t.spi = s.spi)

/-- The error window's expiry: every counter and mark is cleared and the timer restarts; a DEGRADED port of a clean
window counts it, and with the Nc-th goes to LIT, which demands a STATE only where its weight changes; every other
port stays as it is; the raises of the ports that recovered are taken together (R31, R32, R39, R46, R47, R174; log
entry 10 for one search after the moves of all ports). -/
def Obligations.ErrorWindowJudgesPorts : Prop :=
  ∀ s : State, isRunning s.errorTimer = true →
    ∃ t, exec .errorWindowExpiry s = .next t ∧
      t.errorTimer = .running (s.params.errorWindow.toNat * 10000) ∧
      (∀ (p : PortNo) (k : ErrorKind), errorCount k t.graders[p] = 0 ∧ markOf k t.graders[p] = false) ∧
      (∀ p : PortNo, s.ports[p].enabled = true → s.ports[p].condition = .degraded →
        (∀ k, markOf k s.graders[p] = true → actionOf k s.params = .report) →
        (s.graders[p].clean + 1 < s.params.cleanWindows.toNat →
          t.ports[p] = s.ports[p] ∧ t.graders[p].clean = s.graders[p].clean + 1) ∧
        (s.params.cleanWindows.toNat ≤ s.graders[p].clean + 1 →
          t.ports[p] = { s.ports[p] with condition := .lit, restore := .stopped, ramp := .stopped, step := 0 } ∧
          t.graders[p].clean = 0 ∧
          (effectiveWeight s.params.rampSteps.toNat s.ports[p] ≠ s.ports[p].weight → DemandsReport false s t))) ∧
      (∀ p : PortNo, s.ports[p].enabled = true → s.ports[p].condition = .degraded →
        (∃ k, markOf k s.graders[p] = true ∧ actionOf k s.params ≠ .report) →
        t.ports[p] = s.ports[p] ∧ t.graders[p].clean = 0) ∧
      (∀ p : PortNo, (s.ports[p].enabled = false ∨ s.ports[p].condition ≠ .degraded) →
        t.ports[p] = s.ports[p] ∧ t.graders[p].clean = 0) ∧
      ((∀ p : PortNo, windowRestores s.params s.ports[p] s.graders[p] = true →
        effectiveWeight s.params.rampSteps.toNat s.ports[p] = s.ports[p].weight) → DemandsNothing s t) ∧
      Raises ((List.finRange 8).filterMap fun p =>
        if windowRestores s.params s.ports[p] s.graders[p] then some (raiseAbout .uplinkRestored p.val)
        else none) s t ∧
      MonitorFrame s t ∧ CountersBut [.recomputes] s t ∧ t.pins = s.pins ∧ t.cadenceTimer = s.cadenceTimer ∧
      t.spi = s.spi

/-! ### The failover bus -/

/-- The first transition in SEEK: TRACK, the next boundary a cell later, HUNT, the line BUSY; a backoff whose wait had
begun is cleared (R54, R57, R61, R62). -/
def Obligations.FirstTransitionMakesLineBusy : Prop :=
  ∀ s : State, receiveOn s.control.station = true → s.bus.recovery = .seek →
    exec .lineBusy s = .next { s with bus := { s.bus with
      recovery := .track, boundary := 100000, missed := 0, line := .busy
      receiver := { phase := .hunt, run := 0, matched := 0, bytes := [], bits := [], violated := false }
      backoff := match s.bus.backoff with
        | some owed => if owed.waiting then none else some owed
        | none => none } }

/-- Whatever cells were left to tell (the operand of LINE_IDLE is the model's form, log entry 4), the line ends IDLE:
SEEK, no attempt, the idle count from 0. With none told, in an attempt the first missed cell is a collision, and what
follows is as after it. Outside one, two missed cells do so, and a backoff owed begins its wait; a frame in FRAME is
counted: as TRUNCATED, or as a CODE VIOLATION where the first of the missed cells completes its last byte, or a first
byte that names no kind (R56, R58, R59, R60, R61, R62, R64, R78; log entries 28 and 33 for the receiver and the cell
timing in SEEK). -/
def Obligations.SecondMissedCellMakesLineIdle : Prop :=
  (∀ (s : State) (cells : List LineCell), receiveOn s.control.station = true → s.bus.recovery = .track →
    ∃ t, exec (.lineIdle cells) s = .next t ∧ t.bus.recovery = .seek ∧ t.bus.missed = 0 ∧ t.bus.line = .idle ∧
      t.bus.idleCount = 0 ∧ t.bus.inFlight = none) ∧
  (∀ (s : State) (f : InFlight), receiveOn s.control.station = true → s.bus.recovery = .track →
    s.bus.inFlight = some f →
    ∃ t, exec (.collision [] { boundary := none, middle := false }) s = .next t ∧
      exec (.lineIdle []) s = exec (.lineIdle []) t) ∧
  (∀ s : State, receiveOn s.control.station = true → s.bus.recovery = .track → s.bus.inFlight = none →
    ∃ t, exec (.lineIdle []) s = .next t ∧
      (s.bus.receiver.phase = .hunt → t.counters = s.counters) ∧
      (s.bus.receiver.phase = .spent → t.counters = s.counters) ∧
      (s.bus.receiver.phase = .frame →
        (s.bus.receiver.bits.length < 7 ∨ 1 ≤ s.bus.missed ∨
          ∃ n, declaredLength ((s.bus.receiver.bytes ++ [byteOfBits (s.bus.receiver.bits ++ [true])]).headD 0) = some n ∧
            n ≠ s.bus.receiver.bytes.length + 1) →
        counterOf .truncations t = saturatingHalf (counterOf .truncations s) ∧ CountersBut [.truncations] s t) ∧
      (s.bus.receiver.phase = .frame → 7 ≤ s.bus.receiver.bits.length → s.bus.missed = 0 →
        (declaredLength ((s.bus.receiver.bytes ++ [byteOfBits (s.bus.receiver.bits ++ [true])]).headD 0) = none ∨
          declaredLength ((s.bus.receiver.bytes ++ [byteOfBits (s.bus.receiver.bits ++ [true])]).headD 0) =
            some (s.bus.receiver.bytes.length + 1)) →
        counterOf .codeViolations t = saturatingHalf (counterOf .codeViolations s) ∧
        CountersBut [.codeViolations] s t) ∧
      t = { s with bus := t.bus, counters := t.counters } ∧
      t.bus = { s.bus with
        recovery := .seek, boundary := t.bus.boundary, missed := 0, receiver := t.bus.receiver, line := .idle
        idleCount := 0
        backoff := s.bus.backoff.map fun owed => { owed with waiting := true } })

/-- The head starts where it is allowed in the present state, no attempt is on, the line is IDLE, and the idle count,
with the idle cells that the command tells (log entry 3), has reached the gap of the head and the backoff owed: it
leaves the queue and goes in flight, filled with the state as it stands; a JOIN takes sequence 0, and the counter goes
on by 1. Where one of these fails, or the queue is empty, no entry starts and the idle count alone changes (R61, R62,
R63, R70, R74, R75). -/
def Obligations.AttemptStartsWithHead : Prop :=
  (∀ (s : State) (cells place : Nat) (e : QueueEntry), IsHead s.bus.queue place e →
    transmitAllowed s.control.station e.kind = true → s.bus.inFlight = none → s.bus.line = .idle →
    waitOf s.bus e ≤ min 255 (s.bus.idleCount + cells) →
    exec (.attemptStart cells) s = .next { s with
      notices := { s.notices with
        sequence := (if kindOnLine e = .join then 0 else s.notices.sequence) + 1 }
      bus := { s.bus with
        idleCount := min 255 (s.bus.idleCount + cells)
        queue := s.bus.queue.eraseIdx place
        inFlight := some { entry := e, older := place, final := false, frame := filledNotice (kindOnLine e) s }
        driver := .driven (codedFrame (filledNotice (kindOnLine e) s))
        backoff := match s.bus.backoff with
          | some owed => if owed.waiting then none else some owed
          | none => none } }) ∧
  (∀ (s : State) (cells : Nat), s.bus.line = .idle → (s.bus.queue = [] ∨ s.bus.inFlight.isSome = true) →
    exec (.attemptStart cells) s =
      .next { s with bus := { s.bus with idleCount := min 255 (s.bus.idleCount + cells) } }) ∧
  (∀ (s : State) (cells place : Nat) (e : QueueEntry), s.bus.line = .idle → IsHead s.bus.queue place e →
    (transmitAllowed s.control.station e.kind = false ∨ min 255 (s.bus.idleCount + cells) < waitOf s.bus e) →
    exec (.attemptStart cells) s =
      .next { s with bus := { s.bus with idleCount := min 255 (s.bus.idleCount + cells) } }) ∧
  (∀ (s : State) (cells : Nat), s.bus.line = .busy → exec (.attemptStart cells) s = .next s)

/-- The fields of a filled notice, at their offsets, its CRC and its length, and the codes of the kinds (R52, R75,
R177). -/
def Obligations.FilledNoticeFields : Prop :=
  [NoticeKind.join, .state, .alert, .solicit, .leave].map kindCode = [1, 2, 3, 4, 5] ∧
  [NoticeKind.join, .state, .alert, .solicit, .leave].map noticeLength = [21, 17, 17, 6, 4] ∧
  ∀ (kind : NoticeKind) (s : State),
    (filledNotice kind s).length = noticeLength kind ∧
    (filledNotice kind s)[noticeLength kind - 2]? =
      some (highByte (crc16 ((filledNotice kind s).take (noticeLength kind - 2)))) ∧
    (filledNotice kind s)[noticeLength kind - 1]? =
      some (lowByte (crc16 ((filledNotice kind s).take (noticeLength kind - 2)))) ∧
    (filledNotice kind s)[0]? = some (BitVec.ofNat 8 (16 * (kindCode kind).toNat + s.control.number.val)) ∧
    (filledNotice kind s)[1]? = some (if kind = .join then 0 else s.notices.sequence) ∧
    (kind = .join →
      (filledNotice kind s)[2]? = some (BitVec.ofNat 8 s.params.bucketCode.toNat) ∧
      (filledNotice kind s)[3]? = some (highByte s.params.seed) ∧
      (filledNotice kind s)[4]? = some (lowByte s.params.seed) ∧
      (filledNotice kind s)[5]? = some s.params.announce ∧
      (filledNotice kind s)[6]? = some s.params.checksum ∧
      (∀ p : PortNo, (filledNotice kind s)[7 + p.val]? = some (BitVec.ofNat 8
        (16 * (conditionCode s.ports[p].condition).toNat +
          (effectiveWeight s.params.rampSteps.toNat s.ports[p]).toNat))) ∧
      (∀ high, (filledNotice kind s)[15]? = some high → ∀ low, (filledNotice kind s)[16]? = some low → ∀ p : PortNo,
        (256 * high.toNat + low.toNat) / 4 ^ (7 - p.val) % 4 = s.ports[p].group.val) ∧
      (filledNotice kind s)[17]? = some (highByte s.table.digest) ∧
      (filledNotice kind s)[18]? = some (lowByte s.table.digest)) ∧
    ((kind = .state ∨ kind = .alert) →
      (filledNotice kind s)[2]? = some s.params.checksum ∧
      (∀ p : PortNo, (filledNotice kind s)[3 + p.val]? = some (BitVec.ofNat 8
        (16 * (conditionCode s.ports[p].condition).toNat +
          (effectiveWeight s.params.rampSteps.toNat s.ports[p]).toNat))) ∧
      (∀ high, (filledNotice kind s)[11]? = some high → ∀ low, (filledNotice kind s)[12]? = some low → ∀ p : PortNo,
        (256 * high.toNat + low.toNat) / 4 ^ (7 - p.val) % 4 = s.ports[p].group.val) ∧
      (filledNotice kind s)[13]? = some (highByte s.table.digest) ∧
      (filledNotice kind s)[14]? = some (lowByte s.table.digest)) ∧
    (kind = .solicit →
      (filledNotice kind s)[2]? = some (highByte s.table.digest) ∧
      (filledNotice kind s)[3]? = some (lowByte s.table.digest))

/-- A notice that one station fills reads back at another: its kind, sender and sequence, its CRC in agreement, and the
facts of the sender's ports as they stood, where the sender's weights are those of R20 (R63, R75, R79, R83, R177). -/
def Obligations.FilledNoticeReadsBack : Prop :=
  ∀ (kind : NoticeKind) (s : State), PortsOk s →
    ∃ n, noticeOfBytes (filledNotice kind s) = some n ∧ crcAgrees n = true ∧ n.kind = kind ∧
      n.sender = s.control.number ∧ n.sequence = (if kind = .join then 0 else s.notices.sequence) ∧
      ((kind = .join ∨ kind = .state ∨ kind = .alert) → bodyChecksum n.kind n.body = s.params.checksum ∧
        ∀ p : PortNo, (bodyFacts n.kind n.body)[p] = {
          condition := s.ports[p].condition
          weight := effectiveWeight s.params.rampSteps.toNat s.ports[p]
          group := s.ports[p].group }) ∧
      (kind ≠ .leave → bodyDigest n.kind n.body = s.table.digest) ∧
      (kind = .join → joinBucketCode n.body = s.params.bucketCode ∧ joinSeed n.body = s.params.seed ∧
        joinAnnounce n.body = s.params.announce)

/-- What the line coder drives for a frame, a receiver that tracks it from its first cell hands on COMPLETE, with the
same bytes (R52, R55, R57, R58, R59, R67). -/
def Obligations.CodedFrameIsHeard : Prop :=
  ∀ (header : Byte) (rest : List Byte), declaredLength header = some (rest.length + 1) →
    ∃ (before : List LineCell) (last : LineCell),
      seenCells true (codedFrame (header :: rest)) = before ++ [last] ∧
      (∀ c ∈ before ++ [last], c.boundary = some 0) ∧
      (receiveCell (receiveSilently Receiver.reset (before.map cellValue)) (cellValue last)).2 =
        some (.complete (header :: rest))

/-- A collision, at whatever cell: the line is released, the attempt over and the abort counted. The backoff is set;
the notice is given up at its eighth attempt, dropped when final-marked or where the queue holds a LEAVE, and
otherwise returned at its age, where it merges with an entry of its kind queued meanwhile, among whatever other
entries. The giving up of a LEAVE with a restart pending resets, be it final-marked (log entry 26). The cells up to
the collided one pass the clock recovery, those before it at the offsets that the command carries (log entry 19). A
differing or missed cell that only LINE_IDLE tells (log entry 4) is the same collision, and the cells after it are a
received frame's (R14, R55, R56, R64, R65, R66, R72, R163; what a frame that ends at the collided cell does besides is
its own, `collidedFrame`, R60; that the cell timing stands in SEEK is log entry 33; of the reset, log entry 32 is for
the 20 ms of the loading that follows, log entry 21 for the request then held, log entry 24 for the score unit and log
entry 35 for what a cadence window has seen). -/
def Obligations.CollisionAbortsAttempt : Prop :=
  (∀ (s : State) (f : InFlight) (cells : List LineCell), receiveOn s.control.station = true →
    s.bus.recovery = .track → s.bus.inFlight = some f → HeardAsSent f cells →
    (∀ (sent : Bool) (heard : LineCell) (rest : List LineCell), (frameCells f.frame)[cells.length]? = some sent →
      cellValue heard ≠ some sent →
      ∃ t, exec (.collision (cells.map fun c => c.boundary.getD 0) heard) s = .next t ∧
        exec (.lineIdle (cells ++ heard :: rest)) s = exec (.lineIdle rest) t) ∧
    (cells.length < (frameCells f.frame).length →
      ∃ t, exec (.collision (cells.map fun c => c.boundary.getD 0) { boundary := none, middle := false }) s = .next t ∧
        exec (.lineIdle cells) s = exec (.lineIdle []) t)) ∧
  (∀ (s : State) (f : InFlight) (agreed : List Int) (sent : Bool) (heard : LineCell), s.bus.inFlight = some f →
    (frameCells f.frame)[agreed.length]? = some sent → (s.bus.recovery = .seek ∨ cellValue heard ≠ some sent) →
    ∃ t, exec (.collision agreed heard) s = .next t ∧ t.bus.driver = .released ∧ t.bus.inFlight = none ∧
      (8 ≤ f.entry.attempts + 1 → f.entry.kind = .leave → s.control.restartPending = true →
        t.spi = s.spi ∧ Resets s t) ∧
      (collidedFrame f agreed.length heard s.bus = none →
        (f.entry.kind = .leave → s.control.restartPending = true → f.entry.attempts + 1 < 8) →
        t.bus.backoff =
          some { slots := (s.control.number.val + (f.entry.attempts + 1)) % 16 + 1, waiting := false } ∧
        counterOf .collisionAborts t = saturatingHalf (counterOf .collisionAborts s) ∧
        CountersBut [.collisionAborts, .giveUps] s t ∧
        (8 ≤ f.entry.attempts + 1 → t.bus.queue = s.bus.queue ∧
          counterOf .giveUps t = saturatingHalf (counterOf .giveUps s) ∧
          Raises [{ kind := .busGiveUp, subject := none }] s t) ∧
        (f.entry.attempts + 1 < 8 → counterOf .giveUps t = counterOf .giveUps s ∧ t.events = s.events) ∧
        (f.entry.attempts + 1 < 8 → f.final = true → t.bus.queue = s.bus.queue) ∧
        (f.entry.attempts + 1 < 8 → f.final = false → f.older ≤ s.bus.queue.length →
          (∀ e ∈ s.bus.queue, e.kind ≠ f.entry.kind ∧ e.kind ≠ .leave) →
          t.bus.queue = s.bus.queue.insertIdx f.older { f.entry with attempts := f.entry.attempts + 1 }) ∧
        (f.entry.attempts + 1 < 8 → f.final = false → f.entry.kind = .report →
          ∀ e, s.bus.queue = [e] → e.kind = .report →
          t.bus.queue =
            [{ kind := .report, urgent := f.entry.urgent || e.urgent, attempts := f.entry.attempts + 1 }]) ∧
        (f.entry.attempts + 1 < 8 → f.final = false → f.entry.kind ≠ .leave →
          ∀ (older : List QueueEntry) (e : QueueEntry) (younger : List QueueEntry),
          s.bus.queue = older ++ e :: younger → e.kind = f.entry.kind →
          (∀ x ∈ older ++ younger, x.kind ≠ f.entry.kind ∧ x.kind ≠ .leave) → f.older ≤ older.length →
          t.bus.queue = (older ++ younger).insertIdx f.older
            { f.entry with attempts := f.entry.attempts + 1, urgent := f.entry.urgent || e.urgent }) ∧
        (f.entry.attempts + 1 < 8 → f.final = false → (∃ e ∈ s.bus.queue, e.kind = .leave) →
          t.bus.queue = s.bus.queue) ∧
        Timed (agreed.map some ++ [heard.boundary]) s.bus t.bus ∧
        t.bus = { s.bus with
          driver := .released, inFlight := none, boundary := t.bus.boundary, missed := t.bus.missed
          receiver := t.bus.receiver, backoff := t.bus.backoff, queue := t.bus.queue } ∧
        t = { s with bus := t.bus, counters := t.counters, events := t.events }))

/-- A completed attempt: the line released, the notice gone, the sent counter of its kind up, the announce timer
restarted after a report and the holdoff after a SOLICIT; a LEAVE with a restart pending resets. The cells of the
attempt pass the clock recovery: at offsets that no operand of ATTEMPT_COMPLETE tells (free values, log entry 19), or
as only LINE_IDLE tells them (log entry 4), whose further cells are a received frame's. With the recovery in SEEK the
sent cells are collisions, and it aborts (R14, R55, R64, R67, R76, R77, R163; log entry 28 for the receiver in SPENT;
of the reset, log entry 32 is for the 20 ms of the loading that follows, log entry 21 for the request then held, log
entry 24 for the score unit and log entry 35 for what a cadence window has seen). -/
def Obligations.AttemptCompletes : Prop :=
  ∀ (s : State) (f : InFlight), s.bus.inFlight = some f →
    (s.bus.recovery = .seek →
      exec .attemptComplete s = exec (.collision [] { boundary := none, middle := false }) s) ∧
    (s.bus.recovery = .track → (f.entry.kind ≠ .leave ∨ s.control.restartPending = false) →
      ∃ t, exec .attemptComplete s = .next t ∧
        AttemptSent
          ((List.range (frameCells f.frame).length).map fun place => some (Config.echoOffset (s.freeCount + place)))
          f s t) ∧
    (s.bus.recovery = .track → f.entry.kind = .leave → s.control.restartPending = true →
      ∃ t, exec .attemptComplete s = .next t ∧ t.spi = s.spi ∧ Resets s t) ∧
    (∀ cells rest : List LineCell, receiveOn s.control.station = true → s.bus.recovery = .track →
      HeardAsSent f cells → cells.length = (frameCells f.frame).length →
      ((f.entry.kind ≠ .leave ∨ s.control.restartPending = false) →
        ∃ t, AttemptSent (cells.map LineCell.boundary) f s t ∧ t.freeCount = s.freeCount ∧
          exec (.lineIdle (cells ++ rest)) s = exec (.lineIdle rest) t) ∧
      (f.entry.kind = .leave → s.control.restartPending = true →
        ∃ t, exec (.lineIdle (cells ++ rest)) s = .next t ∧ t.spi = s.spi ∧ Resets s t))

/-! ### Notices -/

/-- The frames that R78 discards. With a bad code, truncated, with a bad CRC, or from a slot that is not seated: one
count, and nothing else but the receiver; a stale notice: its two counts. While receive is off, or in an attempt,
nothing is handed on, a clash apart (R1, R58, R60, R78, R79, R81, R82). That such a frame leaves the receiver SPENT
with the recovery and the line as they were, a TRUNCATED one too, where R58 and R59 hand that one on as the line
becomes IDLE, is the model's choice (log entries 5 and 28). -/
def Obligations.DiscardedFramesAreCounted : Prop :=
  (∀ (s : State) (frame : Heard BadFrame),
    (receiveOn s.control.station = false ∨ s.bus.inFlight.isSome = true) →
    exec (.badFrameReceived frame) s = .next s) ∧
  (∀ (c : Instr) (n : Notice) (s : State), noticeOf c = some n →
    (receiveOn s.control.station = false ∨ (s.bus.inFlight.isSome = true ∧
      (n.crc ≠ crc16 (headerByte n.kind n.sender :: n.sequence :: n.body) ∨ n.sender ≠ s.control.number))) →
    exec c s = .next s) ∧
  (∀ (s : State) (times : List (Option Int)), receiveOn s.control.station = true → s.bus.inFlight = none →
    (∃ t, exec (.badFrameReceived ⟨.codeViolation, times⟩) s = .next t ∧ FrameEnds times s t ∧ DemandsNothing s t ∧
      counterOf .codeViolations t = saturatingHalf (counterOf .codeViolations s) ∧
      CountersBut [.codeViolations] s t ∧ t = { s with bus := t.bus, counters := t.counters }) ∧
    (∃ t, exec (.badFrameReceived ⟨.truncated, times⟩) s = .next t ∧ FrameEnds times s t ∧ DemandsNothing s t ∧
      counterOf .truncations t = saturatingHalf (counterOf .truncations s) ∧ CountersBut [.truncations] s t ∧
      t = { s with bus := t.bus, counters := t.counters }) ∧
    (∀ (covered : List Byte) (crc : Half), declaredLength (covered.getD 0 0) = some (covered.length + 2) →
      crc ≠ crc16 covered →
      ∃ t, exec (.badFrameReceived ⟨.complete covered crc, times⟩) s = .next t ∧ FrameEnds times s t ∧
        DemandsNothing s t ∧ counterOf .crcFailures t = saturatingHalf (counterOf .crcFailures s) ∧
        CountersBut [.crcFailures] s t ∧ t = { s with bus := t.bus, counters := t.counters }) ∧
    (∀ (c : Instr) (n : Notice), noticeOf c = some n →
      n.crc ≠ crc16 (headerByte n.kind n.sender :: n.sequence :: n.body) →
      ∃ t, exec c s = .next t ∧ FrameEnds (timesOf c) s t ∧ DemandsNothing s t ∧
        counterOf .crcFailures t = saturatingHalf (counterOf .crcFailures s) ∧ CountersBut [.crcFailures] s t ∧
        t = { s with bus := t.bus, counters := t.counters })) ∧
  (∀ (c : Instr) (n : Notice) (s : State), noticeOf c = some n → receiveOn s.control.station = true →
    s.bus.inFlight = none → n.crc = crc16 (headerByte n.kind n.sender :: n.sequence :: n.body) → n.sender ≠ s.control.number →
    (s.params.presenceInUse = true → s.pins.presence[n.sender] = false →
      ∃ t, exec c s = .next t ∧ FrameEnds (timesOf c) s t ∧ DemandsNothing s t ∧
        counterOf .unseatedNotices t = saturatingHalf (counterOf .unseatedNotices s) ∧
        CountersBut [.unseatedNotices] s t ∧ t = { s with bus := t.bus, counters := t.counters }) ∧
    ((s.params.presenceInUse = true → s.pins.presence[n.sender] = true) → n.kind ≠ .join →
      (s.peers[n.sender].state = .present ∨ s.peers[n.sender].state = .mismatch) →
      ((256 + n.sequence.toNat - s.peers[n.sender].lastSequence.toNat) % 256 = 0 ∨
        128 ≤ (256 + n.sequence.toNat - s.peers[n.sender].lastSequence.toNat) % 256) →
      ∃ t, exec c s = .next t ∧ FrameEnds (timesOf c) s t ∧ DemandsNothing s t ∧
        counterOf .staleNotices t = saturatingHalf (counterOf .staleNotices s) ∧ CountersBut [.staleNotices] s t ∧
        t = { s with
          bus := t.bus, counters := t.counters
          peers := s.peers.set n.sender
            { s.peers[n.sender] with stale := saturatingHalf s.peers[n.sender].stale } }))

/-- A frame with a good CRC and the own number is a clash, by the table of R13: MUTED with the queue emptied and the
line released, from JOINING with the settle timer stopped and all dirty flags set; the engine searches; a pending
restart resets at once; nothing else changes but the clock recovery and the receiver, by the cells told. Outside an
attempt the receiver is SPENT; an attempt that the clash cuts was in its first cells, and the receiver goes on with
its frame (R13, R55, R60, R71, R78, R80, R110, R137, R163; that a frame told in an attempt can be a clash, with what
cells it tells, is log entry 5, and the cell timing in SEEK log entry 33; of the reset, log entry 32 is for the 20 ms
of the loading that follows, log entry 21 for the request then held, log entry 24 for the score unit and log entry 35
for what a cadence window has seen). -/
def Obligations.ClashMutesStation : Prop :=
  ∀ (c : Instr) (n : Notice) (s : State), noticeOf c = some n →
    n.crc = crc16 (headerByte n.kind n.sender :: n.sequence :: n.body) → n.sender = s.control.number →
    ((s.control.station = .joining ∨ s.control.station = .operating ∨
        (s.control.station = .quiet ∧ s.control.restartPending = false)) →
      ∃ t, exec c s = .next t ∧
        t.control = { s.control with
          station := .muted
          settle := if s.control.station = .joining then .stopped else s.control.settle } ∧
        t.bus = { s.bus with
          driver := .released, queue := [], inFlight := none
          boundary := t.bus.boundary, missed := t.bus.missed, receiver := t.bus.receiver } ∧
        Timed (timesOf c) s.bus t.bus ∧
        (s.bus.inFlight = none → t.bus.receiver = { Receiver.reset with phase := .spent }) ∧
        (∀ f, s.bus.inFlight = some f →
          (s.bus.recovery = .track → t.bus.receiver = receiveSilently s.bus.receiver
            (((frameCells f.frame).take (timesOf c).length).map some)) ∧
          (s.bus.recovery = .seek → t.bus.receiver = s.bus.receiver)) ∧
        Raises [raiseAbout .stationClash s.control.number.val] s t ∧ t.events.interrupt = true ∧
        SearchFollows s.engine (fun g => s.control.station = .joining ∨ s.table.dirty[g] = true) s t ∧
        t.peers = s.peers ∧ t.table.rows = s.table.rows ∧ t.table.digest = s.table.digest ∧
        CountersBut [.recomputes] s t ∧ t.pending = s.pending ∧ t.pins = s.pins ∧ t.loader = s.loader ∧
        t.params = s.params ∧ t.ports = s.ports ∧ t.cadenceTimer = s.cadenceTimer ∧ t.graders = s.graders ∧
        t.errorTimer = s.errorTimer ∧ t.notices = s.notices ∧ t.map = s.map ∧ t.lookup = s.lookup ∧ t.spi = s.spi) ∧
    (s.control.station = .quiet → s.control.restartPending = true →
      ∃ t, exec c s = .next t ∧ t.spi = s.spi ∧ Resets s t) ∧
    (s.control.station = .muted →
      ∃ t, exec c s = .next t ∧ Raises [raiseAbout .stationClash s.control.number.val] s t ∧
        DemandsNothing s t ∧ (s.bus.inFlight = none → FrameEnds (timesOf c) s t) ∧
        t = { s with bus := t.bus, events := t.events })

/-- An accepted JOIN: PRESENT with its facts, read by the table of R83, installed where bucket code, seed and announce
interval are equal to the own, else MISMATCH BY JOIN with PEER MISMATCH raised; the silence timer full, the divergence
count 0; a STATE demanded while OPERATING (R82, R83, R84, R89, R94, R100, R101, R105, R177; log entries 5 and 33 for
what the command tells of the line). -/
def Obligations.JoinMovesPeer : Prop :=
  ∀ (sender : StationNo) (sequence : Byte) (body : Vector Byte 17) (crc : Half)
    (times : List (Option Int)) (n : Notice) (s : State),
    n = { kind := .join, sender := sender, sequence := sequence, body := body.toList, crc := crc } → Arrives n s →
    ∃ t, exec (.joinReceived sender sequence body ⟨crc, times⟩) s = .next t ∧ Counted n times s t ∧
      PeerFrame sender s t ∧ TableFollows s t ∧
      t.peers[sender].silence = .running (s.params.silenceLimit.toNat * s.params.announce.toNat * 10000) ∧
      t.peers[sender].divergence = 0 ∧ t.peers[sender].lastChecksum = some body[4] ∧
      t.peers[sender].lastDigest = some (ofBytes body[15] body[16]) ∧
      (body[0].extractLsb' 0 2 = s.params.bucketCode ∧ ofBytes body[1] body[2] = s.params.seed ∧
          body[3] = s.params.announce →
        t.peers[sender].state = .present ∧ t.peers[sender].source = none ∧
        t.peers[sender].report = some (bodyFacts .join body.toList) ∧
        ReadAs (fun p => body[5 + p.val]) (256 * body[13].toNat + body[14].toNat) (bodyFacts .join body.toList) ∧
        RowHolds sender (bodyFacts .join body.toList) s t ∧ t.events = s.events) ∧
      (¬ (body[0].extractLsb' 0 2 = s.params.bucketCode ∧ ofBytes body[1] body[2] = s.params.seed ∧
          body[3] = s.params.announce) →
        t.peers[sender].state = .mismatch ∧ t.peers[sender].source = some .byJoin ∧
        t.peers[sender].report = s.peers[sender].report ∧ RowUnheard sender s t ∧
        (s.peers[sender].state ≠ .mismatch → Raises [raiseAbout .peerMismatch sender.val] s t) ∧
        (s.peers[sender].state = .mismatch → t.events = s.events)) ∧
      (s.control.station = .operating → DemandsReport false s t) ∧
      (s.control.station ≠ .operating → DemandsNothing s t)

/-- An accepted STATE or ALERT: where the checksum matches, and the entry is not MISMATCH BY JOIN, the entry is
PRESENT and holds the facts, read by the table of R83, and the divergence count follows the comparison of the digests,
with VIEW DIVERGENCE and a SOLICIT at the third; else the entry is MISMATCH and keeps its report (R82, R83, R85, R86,
R89, R90, R95, R100, R101, R105, R177; log entries 5 and 33 for what the command tells of the line). -/
def Obligations.ReportMovesPeer : Prop :=
  ∀ (c : Instr) (sender : StationNo) (sequence : Byte) (body : Vector Byte 13) (crc : Half)
    (times : List (Option Int)) (n : Notice) (s : State),
    (c = .stateReceived sender sequence body ⟨crc, times⟩ ∨ c = .alertReceived sender sequence body ⟨crc, times⟩) →
    noticeOf c = some n → Arrives n s → Accepted n s →
    ∃ t, exec c s = .next t ∧ Counted n times s t ∧ PeerFrame sender s t ∧ TableFollows s t ∧
      t.peers[sender].silence = .running (s.params.silenceLimit.toNat * s.params.announce.toNat * 10000) ∧
      t.peers[sender].lastChecksum = some body[0] ∧ t.peers[sender].lastDigest = some (ofBytes body[11] body[12]) ∧
      (body[0] = s.params.checksum →
        ¬ (s.peers[sender].state = .mismatch ∧ s.peers[sender].source = some .byJoin) →
        t.peers[sender].state = .present ∧ t.peers[sender].source = none ∧
        t.peers[sender].report = some (bodyFacts n.kind body.toList) ∧
        ReadAs (fun p => body[1 + p.val]) (256 * body[9].toNat + body[10].toNat) (bodyFacts n.kind body.toList) ∧
        RowHolds sender (bodyFacts n.kind body.toList) s t ∧
        (t.table.digest = ofBytes body[11] body[12] →
          t.peers[sender].divergence = 0 ∧ DemandsNothing s t ∧ t.events = s.events) ∧
        (t.table.digest ≠ ofBytes body[11] body[12] → s.peers[sender].divergence < 2 →
          t.peers[sender].divergence = s.peers[sender].divergence + 1 ∧ DemandsNothing s t ∧ t.events = s.events) ∧
        (t.table.digest ≠ ofBytes body[11] body[12] → s.peers[sender].divergence = 2 →
          t.peers[sender].divergence = 0 ∧ Raises [raiseAbout .viewDivergence sender.val] s t ∧
          (isRunning s.notices.holdoff = true → DemandsNothing s t) ∧
          (s.notices.holdoff = .stopped → Demands .solicit false s t))) ∧
      ((body[0] ≠ s.params.checksum ∨
          (s.peers[sender].state = .mismatch ∧ s.peers[sender].source = some .byJoin)) →
        t.peers[sender].state = .mismatch ∧ t.peers[sender].report = s.peers[sender].report ∧
        t.peers[sender].source = (if s.peers[sender].state = .mismatch ∧ s.peers[sender].source = some .byJoin
          then some .byJoin else some .byChecksum) ∧
        (s.peers[sender].state = .present → t.peers[sender].divergence = 0) ∧ RowUnheard sender s t ∧
        DemandsNothing s t ∧
        (s.peers[sender].state = .mismatch → t.events = s.events) ∧
        (s.peers[sender].state ≠ .mismatch → Raises [raiseAbout .peerMismatch sender.val] s t))

/-- An accepted SOLICIT moves no entry: it records the digest, restarts the silence timer of a PRESENT or MISMATCH
entry, and demands a STATE when the entry is PRESENT (R82, R87, R96; log entries 5 and 33 for what the command tells
of the line). -/
def Obligations.SolicitAsksForReport : Prop :=
  ∀ (sender : StationNo) (sequence : Byte) (body : Vector Byte 2) (crc : Half)
    (times : List (Option Int)) (n : Notice) (s : State),
    n = { kind := .solicit, sender := sender, sequence := sequence, body := body.toList, crc := crc } →
    Arrives n s → Accepted n s →
    ∃ t, exec (.solicitReceived sender sequence body ⟨crc, times⟩) s = .next t ∧ Counted n times s t ∧
      PeerFrame sender s t ∧
      t.peers[sender] = { s.peers[sender] with
        lastSequence := sequence
        accepted := saturatingHalf s.peers[sender].accepted
        lastDigest := some (ofBytes body[0] body[1])
        silence := if s.peers[sender].state = .present ∨ s.peers[sender].state = .mismatch then
            .running (s.params.silenceLimit.toNat * s.params.announce.toNat * 10000)
          else s.peers[sender].silence } ∧
      t.table = s.table ∧ t.engine = s.engine ∧ counterOf .recomputes t = counterOf .recomputes s ∧
      t.events = s.events ∧
      (s.peers[sender].state = .present → DemandsReport false s t) ∧
      (s.peers[sender].state ≠ .present → DemandsNothing s t)

/-- An accepted LEAVE, an expiry of the silence timer and, with presence lines in use, a fall of the presence line:
the entry becomes ABSENT or SILENT, its candidate entries read NOT HEARD, and PEER LOST is raised when it was PRESENT;
a rise changes the level alone (R97, R98, R99, R100, R105; that a LEAVE from an ABSENT station is counted in the entry
is log entry 29, and log entries 5 and 33 are for what its command tells of the line). -/
def Obligations.PeerIsLost : Prop :=
  ∀ (i : StationNo) (s : State),
    (∀ (sequence : Byte) (crc : Half) (times : List (Option Int)) (n : Notice),
      n = { kind := .leave, sender := i, sequence := sequence, body := [], crc := crc } → Arrives n s → Accepted n s →
      ∃ t, exec (.leaveReceived i sequence ⟨crc, times⟩) s = .next t ∧ Counted n times s t ∧ PeerFrame i s t ∧
        TableFollows s t ∧
        t.peers[i] = { s.peers[i] with
          lastSequence := sequence, accepted := saturatingHalf s.peers[i].accepted
          state := .absent, silence := .stopped, report := none, source := none, divergence := 0 } ∧
        RowUnheard i s t ∧ DemandsNothing s t ∧
        (s.peers[i].state = .present → Raises [raiseAbout .peerLost i.val] s t) ∧
        (s.peers[i].state ≠ .present → t.events = s.events)) ∧
    ((s.peers[i].state = .present ∨ s.peers[i].state = .mismatch) → isRunning s.peers[i].silence = true →
      ∃ t, exec (.silenceTimerExpiry i) s = .next t ∧ PeerFrame i s t ∧ TableFollows s t ∧ t.pins = s.pins ∧
        t.bus = s.bus ∧
        CountersBut [.recomputes] s t ∧
        t.peers[i] = { s.peers[i] with
          state := .silent, silence := .stopped, source := none, divergence := 0 } ∧
        RowUnheard i s t ∧
        (s.peers[i].state = .present → Raises [raiseAbout .peerLost i.val] s t) ∧
        (s.peers[i].state = .mismatch → t.events = s.events)) ∧
    (s.pins.presence[i] = true → receiveOn s.control.station = true → s.params.presenceInUse = true →
      (s.peers[i].state = .present ∨ s.peers[i].state = .silent ∨ s.peers[i].state = .mismatch) →
      ∃ t, exec (.presenceLineFall i) s = .next t ∧ PeerFrame i s t ∧ TableFollows s t ∧ t.bus = s.bus ∧
        t.pins = { s.pins with presence := s.pins.presence.set i false } ∧ CountersBut [.recomputes] s t ∧
        t.peers[i] = { s.peers[i] with
          state := .absent, silence := .stopped, report := none, source := none, divergence := 0 } ∧
        RowUnheard i s t ∧
        (s.peers[i].state = .present → Raises [raiseAbout .peerLost i.val] s t) ∧
        (s.peers[i].state ≠ .present → t.events = s.events)) ∧
    (s.pins.presence[i] = true →
      (receiveOn s.control.station = false ∨ s.params.presenceInUse = false ∨ s.peers[i].state = .localEntry ∨
        s.peers[i].state = .absent) →
      exec (.presenceLineFall i) s =
        .next { s with pins := { s.pins with presence := s.pins.presence.set i false } }) ∧
    exec (.presenceLineRise i) s = .next { s with pins := { s.pins with presence := s.pins.presence.set i true } }

/-- The announce timer's expiry restarts it at A and demands a STATE when no report is pending, which is dropped where
the state does not allow it or a LEAVE stands; the holdoff's expiry stops it (R69, R76, R77). -/
def Obligations.AnnounceAndHoldoffExpiries : Prop :=
  ∀ s : State,
    (isRunning s.notices.announce = true →
      ∃ t, exec .announceTimerExpiry s = .next t ∧
        t.notices = { s.notices with announce := .running (s.params.announce.toNat * 10000) } ∧
        (((∃ e ∈ s.bus.queue, e.kind = .report) ∨ ∃ f ∈ s.bus.inFlight, f.entry.kind = .report) →
          t.bus = s.bus) ∧
        ((∀ e ∈ s.bus.queue, e.kind ≠ .report) → (∀ f ∈ s.bus.inFlight, f.entry.kind ≠ .report) →
          leaveStands s.bus = false → transmitAllowed s.control.station .report = true →
          t.bus = { s.bus with queue := s.bus.queue ++ [{ kind := .report, urgent := false, attempts := 0 }] }) ∧
        (transmitAllowed s.control.station .report = false → t.bus = s.bus) ∧
        (leaveStands s.bus = true → t.bus = s.bus) ∧
        t = { s with notices := t.notices, bus := t.bus }) ∧
    exec .solicitHoldoffExpiry s = .next { s with notices := { s.notices with holdoff := .stopped } }

/-! ### The recompute engine -/

/-- A bucket whose cell holds is done: its word stands in the shadow bank and every other word as before; the next
bucket follows, or after the last the flip of R144 and the search. No word of the bank that was active changes (R139,
R140, R144). -/
def Obligations.BucketDoneWritesShadow : Prop :=
  ∀ (g : Group) (b : Bucket) (s : State), s.engine.run = .running g b → MapOk s → s.engine.score = ScoreUnit.reset →
    ∃ t, exec (.bucketDone 0) s = .next t ∧
      storedWord g (!s.map.active[g]) b t.map =
        mapWord (bucketPrimary s.params.seed g b s.engine.snapshot)
          (bucketBackup s.params.seed g b s.engine.snapshot) ∧
      (∀ (g' : Group) (k : Bool) (b' : Bucket), ¬ (g' = g ∧ k = (!s.map.active[g]) ∧ b' = b) →
        storedWord g' k b' t.map = storedWord g' k b' s.map) ∧
      (∀ b' : Bucket, b'.val = b.val + 1 → b'.val < bucketCount s.params.bucketCode →
        t.engine = { s.engine with run := .running g b', score := ScoreUnit.reset } ∧
        t.map.active = s.map.active ∧ t.map.generation = s.map.generation ∧
        t = { s with map := t.map, engine := t.engine }) ∧
      (b.val + 1 = bucketCount s.params.bucketCode →
        t.map.active[g] = (!s.map.active[g]) ∧
        t.map.generation[g].toNat = s.map.generation[g].toNat % 65535 + 1 ∧
        (∀ g', g' ≠ g → t.map.active[g'] = s.map.active[g'] ∧ t.map.generation[g'] = s.map.generation[g']) ∧
        counterOf .flips t = saturatingHalf (counterOf .flips s) ∧ CountersBut [.flips, .recomputes] s t ∧
        SearchFollows
          { s.engine with
            run := .idle, score := ScoreUnit.reset, pointer := g, retried := s.engine.retried.set g false }
          (fun h => s.table.dirty[h] = true) s t ∧
        t.table = { s.table with dirty := t.table.dirty } ∧
        t = { s with map := t.map, engine := t.engine, table := t.table, counters := t.counters })

/-- A failed write: the failed word stands, nothing flips; at a retry count of 0 the group starts again at once with a
new snapshot, or in JOINING is flagged; at 1 the group is in MAP FAULT, with its event, and the engine searches from
there (R137, R140, R145, R146; the bits that do not hold are the command's operand, log entry 6). -/
def Obligations.FailedWriteRetriesThenFaults : Prop :=
  ∀ (g : Group) (b : Bucket) (stuck : MapWord) (s : State), s.engine.run = .running g b → MapOk s → stuck ≠ 0 →
    s.engine.score = ScoreUnit.reset →
    ∃ t, exec (.bucketDone stuck) s = .next t ∧ t.map.active = s.map.active ∧ t.map.generation = s.map.generation ∧
      storedWord g (!s.map.active[g]) b t.map =
        mapWord (bucketPrimary s.params.seed g b s.engine.snapshot)
          (bucketBackup s.params.seed g b s.engine.snapshot) ^^^ stuck ∧
      (∀ (g' : Group) (k : Bool) (b' : Bucket), ¬ (g' = g ∧ k = (!s.map.active[g]) ∧ b' = b) →
        storedWord g' k b' t.map = storedWord g' k b' s.map) ∧
      (s.engine.retried[g] = false → engineMayStart s.control.station = true →
        t.engine = { s.engine with
          run := .running g 0, snapshot := snapshotOf s.table.rows g, score := ScoreUnit.reset
          retried := s.engine.retried.set g true } ∧
        t.table.dirty = s.table.dirty.set g false ∧ counterOf .recomputes t = saturatingHalf (counterOf .recomputes s) ∧
        CountersBut [.recomputes] s t ∧ t.events = s.events) ∧
      (s.engine.retried[g] = false → s.control.station = .joining →
        t.engine = { s.engine with
          run := .idle, score := ScoreUnit.reset, retried := s.engine.retried.set g true } ∧
        t.table.dirty = s.table.dirty.set g true ∧ t.counters = s.counters ∧ t.events = s.events) ∧
      (s.engine.retried[g] = true →
        SearchFollows
          { s.engine with run := .idle, score := ScoreUnit.reset, pointer := g, fault := s.engine.fault.set g true }
          (fun h => s.table.dirty[h] = true) s t ∧
        Raises [raiseAbout .mapFault g.val] s t ∧ t.events.interrupt = true ∧ CountersBut [.recomputes] s t) ∧
      t.table.rows = s.table.rows ∧ t.table.digest = s.table.digest ∧
      t.pending = s.pending ∧ t.pins = s.pins ∧ t.control = s.control ∧ t.params = s.params ∧ t.ports = s.ports ∧
      t.graders = s.graders ∧ t.bus = s.bus ∧ t.notices = s.notices ∧ t.peers = s.peers ∧ t.lookup = s.lookup ∧
      t.spi = s.spi

/-- The key of a group, bucket and uplink (R116): its formula and range, a key of its own for every triple, a triple for
every number. -/
def Obligations.EveryKeyIsOneTriple : Prop :=
  (∀ (g : Group) (b : Bucket) (u : UplinkId),
    scoreKey g b u = (g.val * 2048 + b.val) * 128 + u.val ∧ scoreKey g b u ≤ 1048575) ∧
  (∀ (g g' : Group) (b b' : Bucket) (u u' : UplinkId), scoreKey g b u = scoreKey g' b' u' →
    g = g' ∧ b = b' ∧ u = u') ∧
  (∀ k : Nat, k ≤ 1048575 → ∃ (g : Group) (b : Bucket) (u : UplinkId), scoreKey g b u = k)

/-- The raw and the weighted score, with their bounds; the modulus is the largest prime below 65,536; and the raw score
depends on the seed through its remainder alone (R117, R118, R119). -/
def Obligations.ScoresStayInRange : Prop :=
  (∀ (seed seed' : Half) (g : Group) (b : Bucket) (pair : SnapshotPair),
    rawScore seed (scoreKey g b pair.uplink) =
      ((scoreKey g b pair.uplink + seed.toNat) ^ 2 + scoreKey g b pair.uplink) % 65521 ∧
    scoreKey g b pair.uplink + seed.toNat ≤ 1114110 ∧
    (scoreKey g b pair.uplink + seed.toNat) ^ 2 + scoreKey g b pair.uplink ≤ 1241242140675 ∧
    rawScore seed (scoreKey g b pair.uplink) ≤ 65520 ∧
    (seed.toNat % 65521 = seed'.toNat % 65521 →
      rawScore seed (scoreKey g b pair.uplink) = rawScore seed' (scoreKey g b pair.uplink)) ∧
    weightedScore seed g b pair = rawScore seed (scoreKey g b pair.uplink) * pair.weight.toNat ∧
    weightedScore seed g b pair ≤ 982800) ∧
  Nat.Prime 65521 ∧ ∀ n : Nat, Nat.Prime n → n < 65536 → n ≤ 65521

/-- The shape of an entry follows from the number of candidates: EMPTY with none, the one candidate with no backup
with one, and with more the one that ranks above every other, and the one that ranks above every other but it (R121,
R122). -/
def Obligations.EntryShapeFollowsSnapshot : Prop :=
  ∀ (seed : Half) (g : Group) (b : Bucket) (snapshot : List SnapshotPair),
    (snapshot.map SnapshotPair.uplink).Pairwise (· < ·) →
    (snapshot = [] → bucketPrimary seed g b snapshot = none ∧ bucketBackup seed g b snapshot = none) ∧
    (∀ pair, snapshot = [pair] →
      bucketPrimary seed g b snapshot = some pair.uplink ∧ bucketBackup seed g b snapshot = none) ∧
    (2 ≤ snapshot.length → ∃ top second, RanksFirst seed g b snapshot top ∧ second ∈ snapshot ∧ second ≠ top ∧
      (∀ y ∈ snapshot, y ≠ top → y ≠ second → RanksAbove seed g b second y) ∧
      bucketPrimary seed g b snapshot = some top.uplink ∧ bucketBackup seed g b snapshot = some second.uplink ∧
      top.uplink ≠ second.uplink)

/-- Primary and backup are candidates of the snapshot, and the backup is the primary that the same snapshot gives with
the entry's primary removed (R127). -/
def Obligations.BackupIsNextPrimary : Prop :=
  ∀ (seed : Half) (g : Group) (b : Bucket) (snapshot : List SnapshotPair),
    (snapshot.map SnapshotPair.uplink).Pairwise (· < ·) →
    (∀ u, bucketPrimary seed g b snapshot = some u → u ∈ snapshot.map SnapshotPair.uplink ∧
      bucketBackup seed g b snapshot = bucketPrimary seed g b (snapshot.filter fun pair => pair.uplink != u)) ∧
    (∀ v, bucketBackup seed g b snapshot = some v → v ∈ snapshot.map SnapshotPair.uplink)

/-- With candidates removed only, a primary that remains stays; where it left, the remaining candidate that ranked
highest follows it, which is the backup where that remains (R128). -/
def Obligations.RemovalKeepsPrimaries : Prop :=
  ∀ (seed : Half) (g : Group) (b : Bucket) (old new : List SnapshotPair) (u : UplinkId),
    (old.map SnapshotPair.uplink).Pairwise (· < ·) → new.Sublist old → bucketPrimary seed g b old = some u →
    (u ∈ new.map SnapshotPair.uplink → bucketPrimary seed g b new = some u) ∧
    (u ∉ new.map SnapshotPair.uplink → new ≠ [] →
      ∃ top, RanksFirst seed g b new top ∧ bucketPrimary seed g b new = some top.uplink) ∧
    (u ∉ new.map SnapshotPair.uplink → ∀ v, bucketBackup seed g b old = some v →
      v ∈ new.map SnapshotPair.uplink → bucketPrimary seed g b new = some v)

/-- With one candidate added, or its weight raised, the new primary is the old one or that candidate and the new backup
the old primary, the old backup or that candidate, and an entry whose primary it was, or whose score it leaves, stays.
With one weight lowered, a primary that is another uplink stays, and one that is that candidate stays or passes to its
backup. Between any two snapshots a primary stays whose weight has not fallen and which no added or raised candidate
outranks (R129, R130). -/
def Obligations.OneWeightMovesOnlyItsOwn : Prop :=
  ∀ (seed : Half) (g : Group) (b : Bucket),
    (∀ (before after old new : List SnapshotPair) (u : UplinkId) (w w' : Weight),
      (new.map SnapshotPair.uplink).Pairwise (· < ·) → new = before ++ { uplink := u, weight := w' } :: after →
      ((old = before ++ after ∨ (old = before ++ { uplink := u, weight := w } :: after ∧ w.toNat ≤ w'.toNat)) →
        (bucketPrimary seed g b new = bucketPrimary seed g b old ∨ bucketPrimary seed g b new = some u) ∧
        (bucketBackup seed g b new = bucketPrimary seed g b old ∨
          bucketBackup seed g b new = bucketBackup seed g b old ∨ bucketBackup seed g b new = some u)) ∧
      (old = before ++ { uplink := u, weight := w } :: after → w.toNat ≤ w'.toNat →
        (bucketPrimary seed g b old = some u ∨
          weightedScore seed g b { uplink := u, weight := w' } =
            weightedScore seed g b { uplink := u, weight := w }) →
        bucketPrimary seed g b new = bucketPrimary seed g b old ∧
        bucketBackup seed g b new = bucketBackup seed g b old) ∧
      (old = before ++ { uplink := u, weight := w } :: after → w'.toNat ≤ w.toNat →
        (∀ v, v ≠ u → bucketPrimary seed g b old = some v → bucketPrimary seed g b new = some v) ∧
        (bucketPrimary seed g b old = some u →
          bucketPrimary seed g b new = some u ∨ bucketPrimary seed g b new = bucketBackup seed g b old))) ∧
    (∀ (old new : List SnapshotPair) (x x' : SnapshotPair),
      (old.map SnapshotPair.uplink).Pairwise (· < ·) → (new.map SnapshotPair.uplink).Pairwise (· < ·) →
      x ∈ old → bucketPrimary seed g b old = some x.uplink →
      x' ∈ new → x'.uplink = x.uplink → x.weight.toNat ≤ x'.weight.toNat →
      (∀ z ∈ new, z ≠ x' →
        (∃ z₀ ∈ old, z₀.uplink = z.uplink ∧ z.weight.toNat ≤ z₀.weight.toNat) ∨ RanksAbove seed g b x' z) →
      bucketPrimary seed g b new = some x.uplink)

/-! ### The lookup port -/

/-- A request: not taken while ready is low; taken behind others it waits; taken into an empty FIFO its entry is read
at once: NOT READY, or the active word of its reduced bucket, where a word that fails its check raises MAP PARITY, is
counted, and flags the group unless it is faulted. A stored word holds primary and backup, each a presence bit and an
id, with an odd number of set bits, and reads back; with even parity, an absent field with id bits, a backup without a
primary or a backup equal to the primary, a word fails the check, and one that passes it stores an entry of legal
shape (R122, R125, R133, R151, R153, R154, R155, R180; the changed bits are an operand, log entry 6). -/
def Obligations.RequestIsTaken : Prop :=
  (∀ primary backup : Option UplinkId,
    bitsSet (mapWord primary backup) % 2 = 1 ∧
    (mapWord primary backup).getLsbD 16 = primary.isSome ∧
    (mapWord primary backup).extractLsb' 9 7 = idBits primary ∧
    (mapWord primary backup).getLsbD 8 = backup.isSome ∧
    (mapWord primary backup).extractLsb' 1 7 = idBits backup ∧
    (EntryShape primary backup → readWord (mapWord primary backup) = some (primary, backup))) ∧
  (∀ w : MapWord,
    (bitsSet w % 2 = 0 → readWord w = none) ∧
    (w.getLsbD 16 = false → w.extractLsb' 9 7 ≠ 0 → readWord w = none) ∧
    (w.getLsbD 8 = false → w.extractLsb' 1 7 ≠ 0 → readWord w = none) ∧
    (w.getLsbD 16 = false → w.getLsbD 8 = true → readWord w = none) ∧
    (w.getLsbD 16 = true → w.getLsbD 8 = true → w.extractLsb' 9 7 = w.extractLsb' 1 7 → readWord w = none) ∧
    (∀ primary backup, readWord w = some (primary, backup) →
      EntryShape primary backup ∧ w = mapWord primary backup)) ∧
  ∀ (g : Group) (b : Bucket) (tag : Tag) (upset : MapWord) (s : State), LookupOk s → MapOk s →
    (s.lookup.ready = false → exec (.lookupRequest g b tag upset) s = .next s) ∧
    (s.lookup.ready = true → s.lookup.fifo ≠ [] →
      exec (.lookupRequest g b tag upset) s = .next { s with
        lookup := { s.lookup with
          fifo := s.lookup.fifo ++ [{ group := g, bucket := b, tag := tag }]
          ready := decide (s.lookup.fifo.length + 1 < 8) } }) ∧
    (s.lookup.fifo = [] →
      ∃ t, exec (.lookupRequest g b tag upset) s = .next t ∧
        t.lookup = { s.lookup with
          fifo := [{ group := g, bucket := b, tag := tag }], ready := true, service := t.lookup.service } ∧
        ReadsEntry { group := g, bucket := b, tag := tag } upset s t)

/-- The reply of the head, by the steps of R156: what it names is a candidate of the requested group as the reply is
formed, PRIMARY before BACKUP before the candidate of the lowest id; it is delivered with the request's tag and a
pulse of LR_STB (which the model counts, log entry 15), the request leaves the FIFO, and the next head's entry is read
(R152, R153, R154, R155, R156, R157, R181; the changed bits are an operand, log entry 6). -/
def Obligations.ReplyNamesOnlyCandidates : Prop :=
  [Via.notReady, .primary, .backup, .lastResort, .none].map viaCode = [0, 1, 2, 3, 4] ∧
  ∀ (r : Request) (rest : List Request) (v : Service) (upset : MapWord) (s : State), s.lookup.fifo = r :: rest →
    s.lookup.service = some v → LookupOk s → MapOk s →
    ∃ t, exec (.replyFormation upset) s = .next t ∧ t.lookup.fifo = rest ∧ t.lookup.ready = true ∧
      t.lookup.reply.tag = r.tag ∧ t.lookup.reply.strobes = s.lookup.reply.strobes + 1 ∧
      (t.lookup.reply.named = true →
        ∃ u : UplinkId, t.lookup.reply.uplink = BitVec.ofNat 7 u.val ∧
          isCandidateOf r.group (candidateAt s.table.rows u) = true) ∧
      (t.lookup.reply.named = false → t.lookup.reply.uplink = 0) ∧
      (v = .notReady → t.lookup.reply.via = .notReady ∧ t.lookup.reply.named = false) ∧
      (∀ p q, v = .entry (some p) q → isCandidateOf r.group (candidateAt s.table.rows p) = true →
        t.lookup.reply.via = .primary ∧ t.lookup.reply.uplink = BitVec.ofNat 7 p.val ∧
        t.lookup.reply.named = true) ∧
      (∀ p q, v = .entry p (some q) →
        (∀ x, p = some x → isCandidateOf r.group (candidateAt s.table.rows x) = false) →
        isCandidateOf r.group (candidateAt s.table.rows q) = true →
        t.lookup.reply.via = .backup ∧ t.lookup.reply.uplink = BitVec.ofNat 7 q.val ∧
        t.lookup.reply.named = true) ∧
      ((v = .parityFailure ∨ ∃ p q, v = .entry p q ∧
          (∀ x, p = some x → isCandidateOf r.group (candidateAt s.table.rows x) = false) ∧
          (∀ x, q = some x → isCandidateOf r.group (candidateAt s.table.rows x) = false)) →
        (∀ u : UplinkId, isCandidateOf r.group (candidateAt s.table.rows u) = true →
          (∀ x : UplinkId, x < u → isCandidateOf r.group (candidateAt s.table.rows x) = false) →
          t.lookup.reply.via = .lastResort ∧ t.lookup.reply.uplink = BitVec.ofNat 7 u.val ∧
          t.lookup.reply.named = true) ∧
        ((∀ u : UplinkId, isCandidateOf r.group (candidateAt s.table.rows u) = false) →
          t.lookup.reply.via = .none ∧ t.lookup.reply.named = false)) ∧
      (rest = [] → t = { s with lookup := t.lookup } ∧ t.lookup.service = none) ∧
      (∀ next, rest.head? = some next → ReadsEntry next upset s t)

/-! ### What every step keeps -/

/-- The station right after power-on has every property below (log entries 24 and 35 as for the steps). -/
def Obligations.ResetHasInvariants : Prop :=
  MapOk State.reset ∧ EventsOk State.reset ∧ QueueOk State.reset ∧ ControlOk State.reset ∧ PortsOk State.reset ∧
  GradersOk State.reset ∧ PeersOk State.reset ∧ SourcesOk State.reset ∧ DigestOk State.reset ∧
  EngineOk State.reset ∧ LookupOk State.reset ∧ LineOk State.reset ∧ DriverOk State.reset ∧ DormantOk State.reset

/-- Every step keeps map memory in the canonical form that the model gives it (log entry 7), and the interrupt output,
the pending severity and the first-event record in agreement with the flags and the mask (R170, R175, R176). -/
def Obligations.StepKeepsMapAndEvents : Prop :=
  ∀ s t : State, step s = .next t → (MapOk s → MapOk t) ∧ (EventsOk s → EventsOk t)

/-- Every step keeps the shape of the transmit queue; and the settle timer in JOINING, the cause in CONFIG FAULT, and a
waiting restart with its LEAVE (R1, R9, R14, R68, R69). -/
def Obligations.StepKeepsQueueAndControl : Prop :=
  ∀ s t : State, step s = .next t → (QueueOk s → QueueOk t) ∧ (ControlOk s → ControlOk t)

/-- Every step keeps the port monitors, the clean counts and the blocks that receive has not started (R15, R18, R21,
R35, R47, R93; log entry 35 for what a cadence window has seen by reset, log entry 24 for the score unit). -/
def Obligations.StepKeepsMonitors : Prop :=
  ∀ s t : State, PortsOk s → GradersOk s → DormantOk s → step s = .next t → PortsOk t ∧ GradersOk t ∧ DormantOk t

/-- Every step keeps the peer entries, the candidate table that follows its sources, and the view digest (R91, R92,
R102, R104, R105, R108). -/
def Obligations.StepKeepsTables : Prop :=
  ∀ s t : State, PeersOk s → SourcesOk s → DigestOk s → step s = .next t → PeersOk t ∧ SourcesOk t ∧ DigestOk t

/-- Every step keeps the engine off faulted groups, in its bucket range, and never IDLE beside a group that it may
take, and its candidate snapshot in rising id order, with no id twice and weights of at least 1 (R114, R136, R137,
R138, R139, R147; log entry 24 for the score unit). -/
def Obligations.StepKeepsEngine : Prop := ∀ s t : State, EngineOk s → step s = .next t → EngineOk t

/-- Every step keeps the lookup port's FIFO, ready output and service, the line and its driver (R51, R53, R61, R150,
R153). -/
def Obligations.StepKeepsPorts : Prop :=
  ∀ s t : State, LookupOk s → LineOk s → DriverOk s → step s = .next t → LookupOk t ∧ LineOk t ∧ DriverOk t

/-- The bytes of an inspection command take that command, at its last argument byte and not before. On the SPI bus
each byte comes most significant bit first, sampled at the rises of SCK, and the command is taken at the rise that
samples the last bit of its last byte and not before; what comes after is ignored (R164, R179). -/
def Obligations.InspectionBytesTakeCommand : Prop :=
  (∀ byte : Byte, byteEdges byte = [7, 6, 5, 4, 3, 2, 1, 0].flatMap fun k => [.rise (byte.getLsbD k), .fall]) ∧
  ∀ (i : Instr) (bytes : List Byte), i.wf = true → inspectionBytes i = some bytes →
    takenCommand bytes = some i ∧ (∀ n, n < bytes.length → takenCommand (bytes.take n) = none) ∧
    (∀ more, commandClockedIn ((bytes.flatMap byteEdges).take (16 * bytes.length - 1) ++ more) = some i) ∧
    ∀ n, n + 1 < 16 * bytes.length → commandClockedIn ((bytes.flatMap byteEdges).take n) = none
end

