-- ==== Sys2Proof/Laws/Memory.lean ====
section
/-! SUPPORT. Map memory: a write keeps the canonical form, and a read after a write finds the word written there and the
old word everywhere else. -/

namespace Sys2Proof.Machine.Memory

/-- Every listed address is above `low`. -/
def above (low : Nat) (m : Memory) : Prop := ∀ cell ∈ m, low < cell.1

theorem wf_tail {c : MapCell} {m : Memory} (h : wf (c :: m) = true) : wf m = true := by
  cases m with
  | nil => rfl
  | cons d m => simp only [wf, Bool.and_eq_true] at h; exact h.2

theorem wf_head {c : MapCell} {m : Memory} (h : wf (c :: m) = true) : c.2 ≠ emptyWord := by
  cases m with
  | nil => simpa [wf] using h
  | cons d m => simp only [wf, Bool.and_eq_true, bne_iff_ne] at h; exact h.1.1

theorem wf_above {c : MapCell} {m : Memory} (h : wf (c :: m) = true) : above c.1 m := by
  induction m generalizing c with
  | nil => intro d hd; cases hd
  | cons d m ih =>
    intro e he
    have hlt : c.1 < d.1 := by
      simp only [wf, Bool.and_eq_true, decide_eq_true_eq] at h; exact h.1.2
    rcases List.mem_cons.mp he with rfl | he
    · exact hlt
    · exact Nat.lt_trans hlt (ih (wf_tail h) e he)

theorem wf_cons {c : MapCell} {m : Memory} (hw : c.2 ≠ emptyWord) (ha : above c.1 m) (h : wf m = true) :
    wf (c :: m) = true := by
  cases m with
  | nil => simpa [wf] using hw
  | cons d m =>
    simp only [wf, Bool.and_eq_true, decide_eq_true_eq, bne_iff_ne]
    exact ⟨⟨hw, ha d (List.mem_cons_self ..)⟩, h⟩

theorem put_above {low a : Nat} {w : MapWord} {m : Memory} (hl : low < a) (h : above low m) :
    above low (put a w m) := by
  unfold put; split
  · exact h
  · intro c hc
    rcases List.mem_cons.mp hc with rfl | hc
    · exact hl
    · exact h c hc

theorem write_above {low a : Nat} {w : MapWord} {m : Memory} (hl : low < a) (h : above low m) :
    above low (write a w m) := by
  induction m with
  | nil => exact put_above hl h
  | cons c m ih =>
    have htail : above low m := fun d hd => h d (List.mem_cons_of_mem _ hd)
    unfold write; split
    · intro d hd
      rcases List.mem_cons.mp hd with rfl | hd
      · exact h _ (List.mem_cons_self ..)
      · exact ih htail d hd
    · split
      · exact put_above hl htail
      · exact put_above hl h

theorem put_wf {a : Nat} {w : MapWord} {m : Memory} (ha : above a m) (h : wf m = true) : wf (put a w m) = true := by
  unfold put; split
  · exact h
  · exact wf_cons (by assumption) ha h

/-- A write keeps the canonical form. -/
theorem write_wf (a : Nat) (w : MapWord) {m : Memory} (h : wf m = true) : wf (write a w m) = true := by
  induction m with
  | nil => exact put_wf (fun c hc => by cases hc) rfl
  | cons c m ih =>
    have habove := wf_above h
    unfold write; split
    · rename_i hlt
      exact wf_cons (wf_head h) (write_above hlt habove) (ih (wf_tail h))
    · split
      · rename_i heq
        exact put_wf (heq ▸ habove) (wf_tail h)
      · rename_i hnlt hne
        refine put_wf ?_ h
        intro d hd
        have : a < c.1 := by omega
        rcases List.mem_cons.mp hd with rfl | hd
        · exact this
        · exact Nat.lt_trans this (habove d hd)

theorem read_above {a : Nat} {m : Memory} (h : above a m) : read a m = emptyWord := by
  induction m with
  | nil => rfl
  | cons c m ih =>
    have hc := h c (List.mem_cons_self ..)
    unfold read
    rw [if_neg (by omega)]
    exact ih fun d hd => h d (List.mem_cons_of_mem _ hd)

theorem read_put {a b : Nat} {w : MapWord} {m : Memory} (ha : above a m) :
    read b (put a w m) = if b = a then w else read b m := by
  unfold put; split
  · rename_i hw
    split
    · rename_i hb; subst hb; rw [read_above ha, hw]
    · rfl
  · by_cases hb : b = a
    · subst hb; simp [read]
    · rw [if_neg hb]; unfold read; rw [if_neg (fun h => hb h.symm)]; cases m <;> rfl

/-- What a read finds after a write. -/
theorem read_write (a b : Nat) (w : MapWord) {m : Memory} (h : wf m = true) :
    read b (write a w m) = if b = a then w else read b m := by
  induction m with
  | nil => exact read_put (fun c hc => by cases hc)
  | cons c m ih =>
    have habove := wf_above h
    unfold write; split
    · rename_i hlt
      unfold read
      by_cases hc : c.1 = b
      · rw [if_pos hc, if_pos hc, if_neg (by omega)]
      · rw [if_neg hc, if_neg hc]; exact ih (wf_tail h)
    · split
      · rename_i heq
        rw [read_put (heq ▸ habove)]
        by_cases hb : b = a
        · rw [if_pos hb, if_pos hb]
        · rw [if_neg hb, if_neg hb]
          conv => rhs; unfold read
          rw [if_neg (by omega)]
      · rename_i hnlt hne
        refine read_put ?_
        intro d hd
        have : a < c.1 := by omega
        rcases List.mem_cons.mp hd with rfl | hd
        · exact this
        · exact Nat.lt_trans this (habove d hd)

theorem read_write_same (a : Nat) (w : MapWord) {m : Memory} (h : wf m = true) : read a (write a w m) = w := by
  rw [read_write a a w h, if_pos rfl]

theorem read_write_other {a b : Nat} (w : MapWord) {m : Memory} (h : wf m = true) (hb : b ≠ a) :
    read b (write a w m) = read b m := by
  rw [read_write a b w h, if_neg hb]

end Sys2Proof.Machine.Memory

namespace Sys2Proof.Machine

/-- Two buckets of map memory share an address only where group, bank and bucket are the same. -/
theorem mapAddress_inj {g g' : Group} {k k' : Bool} {b b' : Bucket}
    (h : mapAddress g k b = mapAddress g' k' b') : g = g' ∧ k = k' ∧ b = b' := by
  unfold mapAddress at h
  have hb := b.isLt
  have hb' := b'.isLt
  have hk : k.toNat < 2 := by cases k <;> decide
  have hk' : k'.toNat < 2 := by cases k' <;> decide
  refine ⟨Fin.ext (by omega), ?_, Fin.ext (by omega)⟩
  have : k.toNat = k'.toNat := by omega
  cases k <;> cases k' <;> simp_all

/-- Every map operation keeps the canonical form. -/
theorem storeWord_wf (g : Group) (k : Bool) (b : Bucket) (w : MapWord) {m : MapMemory}
    (h : Memory.wf m.words = true) : Memory.wf (storeWord g k b w m).words = true :=
  Memory.write_wf _ _ h

theorem storedWord_storeWord_same (g : Group) (k : Bool) (b : Bucket) (w : MapWord) {m : MapMemory}
    (h : Memory.wf m.words = true) : storedWord g k b (storeWord g k b w m) = w :=
  Memory.read_write_same _ _ h

theorem storedWord_storeWord_other {g g' : Group} {k k' : Bool} {b b' : Bucket} (w : MapWord) {m : MapMemory}
    (h : Memory.wf m.words = true) (hne : ¬ (g' = g ∧ k' = k ∧ b' = b)) :
    storedWord g' k' b' (storeWord g k b w m) = storedWord g' k' b' m :=
  Memory.read_write_other _ h fun he => hne (mapAddress_inj he)

end Sys2Proof.Machine
end

