-- ==== Sys2Proof/Laws/State.lean ====
section
/-! SUPPORT. What each shared update leaves of every field of `State`: a proof cites these and never unfolds a record
update. `<update>_<field>` says that the field is as before. -/

namespace Sys2Proof.Machine

/-! ### bump -/

@[simp] theorem bump_pending (c : Counter) (s : State) : (bump c s).pending = s.pending := rfl
@[simp] theorem bump_freeCount (c : Counter) (s : State) : (bump c s).freeCount = s.freeCount := rfl
@[simp] theorem bump_pins (c : Counter) (s : State) : (bump c s).pins = s.pins := rfl
@[simp] theorem bump_control (c : Counter) (s : State) : (bump c s).control = s.control := rfl
@[simp] theorem bump_loader (c : Counter) (s : State) : (bump c s).loader = s.loader := rfl
@[simp] theorem bump_params (c : Counter) (s : State) : (bump c s).params = s.params := rfl
@[simp] theorem bump_ports (c : Counter) (s : State) : (bump c s).ports = s.ports := rfl
@[simp] theorem bump_cadenceTimer (c : Counter) (s : State) : (bump c s).cadenceTimer = s.cadenceTimer := rfl
@[simp] theorem bump_graders (c : Counter) (s : State) : (bump c s).graders = s.graders := rfl
@[simp] theorem bump_errorTimer (c : Counter) (s : State) : (bump c s).errorTimer = s.errorTimer := rfl
@[simp] theorem bump_bus (c : Counter) (s : State) : (bump c s).bus = s.bus := rfl
@[simp] theorem bump_notices (c : Counter) (s : State) : (bump c s).notices = s.notices := rfl
@[simp] theorem bump_peers (c : Counter) (s : State) : (bump c s).peers = s.peers := rfl
@[simp] theorem bump_table (c : Counter) (s : State) : (bump c s).table = s.table := rfl
@[simp] theorem bump_engine (c : Counter) (s : State) : (bump c s).engine = s.engine := rfl
@[simp] theorem bump_map (c : Counter) (s : State) : (bump c s).map = s.map := rfl
@[simp] theorem bump_lookup (c : Counter) (s : State) : (bump c s).lookup = s.lookup := rfl
@[simp] theorem bump_spi (c : Counter) (s : State) : (bump c s).spi = s.spi := rfl
@[simp] theorem bump_events (c : Counter) (s : State) : (bump c s).events = s.events := rfl

/-! ### bumpTimes -/

@[simp] theorem bumpTimes_pending (c : Counter) (n : Nat) (s : State) : (bumpTimes c n s).pending = s.pending := rfl
@[simp] theorem bumpTimes_freeCount (c : Counter) (n : Nat) (s : State) : (bumpTimes c n s).freeCount = s.freeCount := rfl
@[simp] theorem bumpTimes_pins (c : Counter) (n : Nat) (s : State) : (bumpTimes c n s).pins = s.pins := rfl
@[simp] theorem bumpTimes_control (c : Counter) (n : Nat) (s : State) : (bumpTimes c n s).control = s.control := rfl
@[simp] theorem bumpTimes_loader (c : Counter) (n : Nat) (s : State) : (bumpTimes c n s).loader = s.loader := rfl
@[simp] theorem bumpTimes_params (c : Counter) (n : Nat) (s : State) : (bumpTimes c n s).params = s.params := rfl
@[simp] theorem bumpTimes_ports (c : Counter) (n : Nat) (s : State) : (bumpTimes c n s).ports = s.ports := rfl
@[simp] theorem bumpTimes_cadenceTimer (c : Counter) (n : Nat) (s : State) : (bumpTimes c n s).cadenceTimer = s.cadenceTimer := rfl
@[simp] theorem bumpTimes_graders (c : Counter) (n : Nat) (s : State) : (bumpTimes c n s).graders = s.graders := rfl
@[simp] theorem bumpTimes_errorTimer (c : Counter) (n : Nat) (s : State) : (bumpTimes c n s).errorTimer = s.errorTimer := rfl
@[simp] theorem bumpTimes_bus (c : Counter) (n : Nat) (s : State) : (bumpTimes c n s).bus = s.bus := rfl
@[simp] theorem bumpTimes_notices (c : Counter) (n : Nat) (s : State) : (bumpTimes c n s).notices = s.notices := rfl
@[simp] theorem bumpTimes_peers (c : Counter) (n : Nat) (s : State) : (bumpTimes c n s).peers = s.peers := rfl
@[simp] theorem bumpTimes_table (c : Counter) (n : Nat) (s : State) : (bumpTimes c n s).table = s.table := rfl
@[simp] theorem bumpTimes_engine (c : Counter) (n : Nat) (s : State) : (bumpTimes c n s).engine = s.engine := rfl
@[simp] theorem bumpTimes_map (c : Counter) (n : Nat) (s : State) : (bumpTimes c n s).map = s.map := rfl
@[simp] theorem bumpTimes_lookup (c : Counter) (n : Nat) (s : State) : (bumpTimes c n s).lookup = s.lookup := rfl
@[simp] theorem bumpTimes_spi (c : Counter) (n : Nat) (s : State) : (bumpTimes c n s).spi = s.spi := rfl
@[simp] theorem bumpTimes_events (c : Counter) (n : Nat) (s : State) : (bumpTimes c n s).events = s.events := rfl

/-! ### raiseEvents -/

@[simp] theorem raiseEvents_pending (rs : List Raise) (s : State) : (raiseEvents rs s).pending = s.pending := rfl
@[simp] theorem raiseEvents_pins (rs : List Raise) (s : State) : (raiseEvents rs s).pins = s.pins := rfl
@[simp] theorem raiseEvents_control (rs : List Raise) (s : State) : (raiseEvents rs s).control = s.control := rfl
@[simp] theorem raiseEvents_loader (rs : List Raise) (s : State) : (raiseEvents rs s).loader = s.loader := rfl
@[simp] theorem raiseEvents_params (rs : List Raise) (s : State) : (raiseEvents rs s).params = s.params := rfl
@[simp] theorem raiseEvents_ports (rs : List Raise) (s : State) : (raiseEvents rs s).ports = s.ports := rfl
@[simp] theorem raiseEvents_cadenceTimer (rs : List Raise) (s : State) : (raiseEvents rs s).cadenceTimer = s.cadenceTimer := rfl
@[simp] theorem raiseEvents_graders (rs : List Raise) (s : State) : (raiseEvents rs s).graders = s.graders := rfl
@[simp] theorem raiseEvents_errorTimer (rs : List Raise) (s : State) : (raiseEvents rs s).errorTimer = s.errorTimer := rfl
@[simp] theorem raiseEvents_bus (rs : List Raise) (s : State) : (raiseEvents rs s).bus = s.bus := rfl
@[simp] theorem raiseEvents_notices (rs : List Raise) (s : State) : (raiseEvents rs s).notices = s.notices := rfl
@[simp] theorem raiseEvents_counters (rs : List Raise) (s : State) : (raiseEvents rs s).counters = s.counters := rfl
@[simp] theorem raiseEvents_peers (rs : List Raise) (s : State) : (raiseEvents rs s).peers = s.peers := rfl
@[simp] theorem raiseEvents_table (rs : List Raise) (s : State) : (raiseEvents rs s).table = s.table := rfl
@[simp] theorem raiseEvents_engine (rs : List Raise) (s : State) : (raiseEvents rs s).engine = s.engine := rfl
@[simp] theorem raiseEvents_map (rs : List Raise) (s : State) : (raiseEvents rs s).map = s.map := rfl
@[simp] theorem raiseEvents_lookup (rs : List Raise) (s : State) : (raiseEvents rs s).lookup = s.lookup := rfl
@[simp] theorem raiseEvents_spi (rs : List Raise) (s : State) : (raiseEvents rs s).spi = s.spi := rfl

/-! ### markDirty -/

@[simp] theorem markDirty_pending (g : Group) (s : State) : (markDirty g s).pending = s.pending := rfl
@[simp] theorem markDirty_freeCount (g : Group) (s : State) : (markDirty g s).freeCount = s.freeCount := rfl
@[simp] theorem markDirty_pins (g : Group) (s : State) : (markDirty g s).pins = s.pins := rfl
@[simp] theorem markDirty_control (g : Group) (s : State) : (markDirty g s).control = s.control := rfl
@[simp] theorem markDirty_loader (g : Group) (s : State) : (markDirty g s).loader = s.loader := rfl
@[simp] theorem markDirty_params (g : Group) (s : State) : (markDirty g s).params = s.params := rfl
@[simp] theorem markDirty_ports (g : Group) (s : State) : (markDirty g s).ports = s.ports := rfl
@[simp] theorem markDirty_cadenceTimer (g : Group) (s : State) : (markDirty g s).cadenceTimer = s.cadenceTimer := rfl
@[simp] theorem markDirty_graders (g : Group) (s : State) : (markDirty g s).graders = s.graders := rfl
@[simp] theorem markDirty_errorTimer (g : Group) (s : State) : (markDirty g s).errorTimer = s.errorTimer := rfl
@[simp] theorem markDirty_bus (g : Group) (s : State) : (markDirty g s).bus = s.bus := rfl
@[simp] theorem markDirty_notices (g : Group) (s : State) : (markDirty g s).notices = s.notices := rfl
@[simp] theorem markDirty_counters (g : Group) (s : State) : (markDirty g s).counters = s.counters := rfl
@[simp] theorem markDirty_peers (g : Group) (s : State) : (markDirty g s).peers = s.peers := rfl
@[simp] theorem markDirty_engine (g : Group) (s : State) : (markDirty g s).engine = s.engine := rfl
@[simp] theorem markDirty_map (g : Group) (s : State) : (markDirty g s).map = s.map := rfl
@[simp] theorem markDirty_lookup (g : Group) (s : State) : (markDirty g s).lookup = s.lookup := rfl
@[simp] theorem markDirty_spi (g : Group) (s : State) : (markDirty g s).spi = s.spi := rfl
@[simp] theorem markDirty_events (g : Group) (s : State) : (markDirty g s).events = s.events := rfl

/-! ### markAllDirty -/

@[simp] theorem markAllDirty_pending (s : State) : (markAllDirty s).pending = s.pending := rfl
@[simp] theorem markAllDirty_freeCount (s : State) : (markAllDirty s).freeCount = s.freeCount := rfl
@[simp] theorem markAllDirty_pins (s : State) : (markAllDirty s).pins = s.pins := rfl
@[simp] theorem markAllDirty_control (s : State) : (markAllDirty s).control = s.control := rfl
@[simp] theorem markAllDirty_loader (s : State) : (markAllDirty s).loader = s.loader := rfl
@[simp] theorem markAllDirty_params (s : State) : (markAllDirty s).params = s.params := rfl
@[simp] theorem markAllDirty_ports (s : State) : (markAllDirty s).ports = s.ports := rfl
@[simp] theorem markAllDirty_cadenceTimer (s : State) : (markAllDirty s).cadenceTimer = s.cadenceTimer := rfl
@[simp] theorem markAllDirty_graders (s : State) : (markAllDirty s).graders = s.graders := rfl
@[simp] theorem markAllDirty_errorTimer (s : State) : (markAllDirty s).errorTimer = s.errorTimer := rfl
@[simp] theorem markAllDirty_bus (s : State) : (markAllDirty s).bus = s.bus := rfl
@[simp] theorem markAllDirty_notices (s : State) : (markAllDirty s).notices = s.notices := rfl
@[simp] theorem markAllDirty_counters (s : State) : (markAllDirty s).counters = s.counters := rfl
@[simp] theorem markAllDirty_peers (s : State) : (markAllDirty s).peers = s.peers := rfl
@[simp] theorem markAllDirty_engine (s : State) : (markAllDirty s).engine = s.engine := rfl
@[simp] theorem markAllDirty_map (s : State) : (markAllDirty s).map = s.map := rfl
@[simp] theorem markAllDirty_lookup (s : State) : (markAllDirty s).lookup = s.lookup := rfl
@[simp] theorem markAllDirty_spi (s : State) : (markAllDirty s).spi = s.spi := rfl
@[simp] theorem markAllDirty_events (s : State) : (markAllDirty s).events = s.events := rfl

/-! ### startRecompute -/

@[simp] theorem startRecompute_pending (g : Group) (s : State) : (startRecompute g s).pending = s.pending := rfl
@[simp] theorem startRecompute_freeCount (g : Group) (s : State) : (startRecompute g s).freeCount = s.freeCount := rfl
@[simp] theorem startRecompute_pins (g : Group) (s : State) : (startRecompute g s).pins = s.pins := rfl
@[simp] theorem startRecompute_control (g : Group) (s : State) : (startRecompute g s).control = s.control := rfl
@[simp] theorem startRecompute_loader (g : Group) (s : State) : (startRecompute g s).loader = s.loader := rfl
@[simp] theorem startRecompute_params (g : Group) (s : State) : (startRecompute g s).params = s.params := rfl
@[simp] theorem startRecompute_ports (g : Group) (s : State) : (startRecompute g s).ports = s.ports := rfl
@[simp] theorem startRecompute_cadenceTimer (g : Group) (s : State) : (startRecompute g s).cadenceTimer = s.cadenceTimer := rfl
@[simp] theorem startRecompute_graders (g : Group) (s : State) : (startRecompute g s).graders = s.graders := rfl
@[simp] theorem startRecompute_errorTimer (g : Group) (s : State) : (startRecompute g s).errorTimer = s.errorTimer := rfl
@[simp] theorem startRecompute_bus (g : Group) (s : State) : (startRecompute g s).bus = s.bus := rfl
@[simp] theorem startRecompute_notices (g : Group) (s : State) : (startRecompute g s).notices = s.notices := rfl
@[simp] theorem startRecompute_peers (g : Group) (s : State) : (startRecompute g s).peers = s.peers := rfl
@[simp] theorem startRecompute_map (g : Group) (s : State) : (startRecompute g s).map = s.map := rfl
@[simp] theorem startRecompute_lookup (g : Group) (s : State) : (startRecompute g s).lookup = s.lookup := rfl
@[simp] theorem startRecompute_spi (g : Group) (s : State) : (startRecompute g s).spi = s.spi := rfl
@[simp] theorem startRecompute_events (g : Group) (s : State) : (startRecompute g s).events = s.events := rfl

/-! ### changePeer -/

@[simp] theorem changePeer_pending (i : StationNo) (p : Peer) (s : State) : (changePeer i p s).pending = s.pending := rfl
@[simp] theorem changePeer_freeCount (i : StationNo) (p : Peer) (s : State) : (changePeer i p s).freeCount = s.freeCount := rfl
@[simp] theorem changePeer_pins (i : StationNo) (p : Peer) (s : State) : (changePeer i p s).pins = s.pins := rfl
@[simp] theorem changePeer_control (i : StationNo) (p : Peer) (s : State) : (changePeer i p s).control = s.control := rfl
@[simp] theorem changePeer_loader (i : StationNo) (p : Peer) (s : State) : (changePeer i p s).loader = s.loader := rfl
@[simp] theorem changePeer_params (i : StationNo) (p : Peer) (s : State) : (changePeer i p s).params = s.params := rfl
@[simp] theorem changePeer_ports (i : StationNo) (p : Peer) (s : State) : (changePeer i p s).ports = s.ports := rfl
@[simp] theorem changePeer_cadenceTimer (i : StationNo) (p : Peer) (s : State) : (changePeer i p s).cadenceTimer = s.cadenceTimer := rfl
@[simp] theorem changePeer_graders (i : StationNo) (p : Peer) (s : State) : (changePeer i p s).graders = s.graders := rfl
@[simp] theorem changePeer_errorTimer (i : StationNo) (p : Peer) (s : State) : (changePeer i p s).errorTimer = s.errorTimer := rfl
@[simp] theorem changePeer_bus (i : StationNo) (p : Peer) (s : State) : (changePeer i p s).bus = s.bus := rfl
@[simp] theorem changePeer_notices (i : StationNo) (p : Peer) (s : State) : (changePeer i p s).notices = s.notices := rfl
@[simp] theorem changePeer_counters (i : StationNo) (p : Peer) (s : State) : (changePeer i p s).counters = s.counters := rfl
@[simp] theorem changePeer_engine (i : StationNo) (p : Peer) (s : State) : (changePeer i p s).engine = s.engine := rfl
@[simp] theorem changePeer_map (i : StationNo) (p : Peer) (s : State) : (changePeer i p s).map = s.map := rfl
@[simp] theorem changePeer_lookup (i : StationNo) (p : Peer) (s : State) : (changePeer i p s).lookup = s.lookup := rfl
@[simp] theorem changePeer_spi (i : StationNo) (p : Peer) (s : State) : (changePeer i p s).spi = s.spi := rfl
@[simp] theorem changePeer_events (i : StationNo) (p : Peer) (s : State) : (changePeer i p s).events = s.events := rfl

/-! ### spendReceiver -/

@[simp] theorem spendReceiver_pending (ts : List (Option Int)) (s : State) : (spendReceiver ts s).pending = s.pending := rfl
@[simp] theorem spendReceiver_freeCount (ts : List (Option Int)) (s : State) : (spendReceiver ts s).freeCount = s.freeCount := rfl
@[simp] theorem spendReceiver_pins (ts : List (Option Int)) (s : State) : (spendReceiver ts s).pins = s.pins := rfl
@[simp] theorem spendReceiver_control (ts : List (Option Int)) (s : State) : (spendReceiver ts s).control = s.control := rfl
@[simp] theorem spendReceiver_loader (ts : List (Option Int)) (s : State) : (spendReceiver ts s).loader = s.loader := rfl
@[simp] theorem spendReceiver_params (ts : List (Option Int)) (s : State) : (spendReceiver ts s).params = s.params := rfl
@[simp] theorem spendReceiver_ports (ts : List (Option Int)) (s : State) : (spendReceiver ts s).ports = s.ports := rfl
@[simp] theorem spendReceiver_cadenceTimer (ts : List (Option Int)) (s : State) : (spendReceiver ts s).cadenceTimer = s.cadenceTimer := rfl
@[simp] theorem spendReceiver_graders (ts : List (Option Int)) (s : State) : (spendReceiver ts s).graders = s.graders := rfl
@[simp] theorem spendReceiver_errorTimer (ts : List (Option Int)) (s : State) : (spendReceiver ts s).errorTimer = s.errorTimer := rfl
@[simp] theorem spendReceiver_notices (ts : List (Option Int)) (s : State) : (spendReceiver ts s).notices = s.notices := rfl
@[simp] theorem spendReceiver_counters (ts : List (Option Int)) (s : State) : (spendReceiver ts s).counters = s.counters := rfl
@[simp] theorem spendReceiver_peers (ts : List (Option Int)) (s : State) : (spendReceiver ts s).peers = s.peers := rfl
@[simp] theorem spendReceiver_table (ts : List (Option Int)) (s : State) : (spendReceiver ts s).table = s.table := rfl
@[simp] theorem spendReceiver_engine (ts : List (Option Int)) (s : State) : (spendReceiver ts s).engine = s.engine := rfl
@[simp] theorem spendReceiver_map (ts : List (Option Int)) (s : State) : (spendReceiver ts s).map = s.map := rfl
@[simp] theorem spendReceiver_lookup (ts : List (Option Int)) (s : State) : (spendReceiver ts s).lookup = s.lookup := rfl
@[simp] theorem spendReceiver_spi (ts : List (Option Int)) (s : State) : (spendReceiver ts s).spi = s.spi := rfl
@[simp] theorem spendReceiver_events (ts : List (Option Int)) (s : State) : (spendReceiver ts s).events = s.events := rfl

/-! ### holdService -/

@[simp] theorem holdService_pending (v : Service) (s : State) : (holdService v s).pending = s.pending := rfl
@[simp] theorem holdService_freeCount (v : Service) (s : State) : (holdService v s).freeCount = s.freeCount := rfl
@[simp] theorem holdService_pins (v : Service) (s : State) : (holdService v s).pins = s.pins := rfl
@[simp] theorem holdService_control (v : Service) (s : State) : (holdService v s).control = s.control := rfl
@[simp] theorem holdService_loader (v : Service) (s : State) : (holdService v s).loader = s.loader := rfl
@[simp] theorem holdService_params (v : Service) (s : State) : (holdService v s).params = s.params := rfl
@[simp] theorem holdService_ports (v : Service) (s : State) : (holdService v s).ports = s.ports := rfl
@[simp] theorem holdService_cadenceTimer (v : Service) (s : State) : (holdService v s).cadenceTimer = s.cadenceTimer := rfl
@[simp] theorem holdService_graders (v : Service) (s : State) : (holdService v s).graders = s.graders := rfl
@[simp] theorem holdService_errorTimer (v : Service) (s : State) : (holdService v s).errorTimer = s.errorTimer := rfl
@[simp] theorem holdService_bus (v : Service) (s : State) : (holdService v s).bus = s.bus := rfl
@[simp] theorem holdService_notices (v : Service) (s : State) : (holdService v s).notices = s.notices := rfl
@[simp] theorem holdService_counters (v : Service) (s : State) : (holdService v s).counters = s.counters := rfl
@[simp] theorem holdService_peers (v : Service) (s : State) : (holdService v s).peers = s.peers := rfl
@[simp] theorem holdService_table (v : Service) (s : State) : (holdService v s).table = s.table := rfl
@[simp] theorem holdService_engine (v : Service) (s : State) : (holdService v s).engine = s.engine := rfl
@[simp] theorem holdService_map (v : Service) (s : State) : (holdService v s).map = s.map := rfl
@[simp] theorem holdService_spi (v : Service) (s : State) : (holdService v s).spi = s.spi := rfl
@[simp] theorem holdService_events (v : Service) (s : State) : (holdService v s).events = s.events := rfl

/-! ### setFifo -/

@[simp] theorem setFifo_pending (l : List Request) (s : State) : (setFifo l s).pending = s.pending := rfl
@[simp] theorem setFifo_freeCount (l : List Request) (s : State) : (setFifo l s).freeCount = s.freeCount := rfl
@[simp] theorem setFifo_pins (l : List Request) (s : State) : (setFifo l s).pins = s.pins := rfl
@[simp] theorem setFifo_control (l : List Request) (s : State) : (setFifo l s).control = s.control := rfl
@[simp] theorem setFifo_loader (l : List Request) (s : State) : (setFifo l s).loader = s.loader := rfl
@[simp] theorem setFifo_params (l : List Request) (s : State) : (setFifo l s).params = s.params := rfl
@[simp] theorem setFifo_ports (l : List Request) (s : State) : (setFifo l s).ports = s.ports := rfl
@[simp] theorem setFifo_cadenceTimer (l : List Request) (s : State) : (setFifo l s).cadenceTimer = s.cadenceTimer := rfl
@[simp] theorem setFifo_graders (l : List Request) (s : State) : (setFifo l s).graders = s.graders := rfl
@[simp] theorem setFifo_errorTimer (l : List Request) (s : State) : (setFifo l s).errorTimer = s.errorTimer := rfl
@[simp] theorem setFifo_bus (l : List Request) (s : State) : (setFifo l s).bus = s.bus := rfl
@[simp] theorem setFifo_notices (l : List Request) (s : State) : (setFifo l s).notices = s.notices := rfl
@[simp] theorem setFifo_counters (l : List Request) (s : State) : (setFifo l s).counters = s.counters := rfl
@[simp] theorem setFifo_peers (l : List Request) (s : State) : (setFifo l s).peers = s.peers := rfl
@[simp] theorem setFifo_table (l : List Request) (s : State) : (setFifo l s).table = s.table := rfl
@[simp] theorem setFifo_engine (l : List Request) (s : State) : (setFifo l s).engine = s.engine := rfl
@[simp] theorem setFifo_map (l : List Request) (s : State) : (setFifo l s).map = s.map := rfl
@[simp] theorem setFifo_spi (l : List Request) (s : State) : (setFifo l s).spi = s.spi := rfl
@[simp] theorem setFifo_events (l : List Request) (s : State) : (setFifo l s).events = s.events := rfl

/-! ### applyUpset -/

@[simp] theorem applyUpset_pending (r : Request) (u : MapWord) (s : State) : (applyUpset r u s).pending = s.pending := rfl
@[simp] theorem applyUpset_freeCount (r : Request) (u : MapWord) (s : State) : (applyUpset r u s).freeCount = s.freeCount := rfl
@[simp] theorem applyUpset_pins (r : Request) (u : MapWord) (s : State) : (applyUpset r u s).pins = s.pins := rfl
@[simp] theorem applyUpset_control (r : Request) (u : MapWord) (s : State) : (applyUpset r u s).control = s.control := rfl
@[simp] theorem applyUpset_loader (r : Request) (u : MapWord) (s : State) : (applyUpset r u s).loader = s.loader := rfl
@[simp] theorem applyUpset_params (r : Request) (u : MapWord) (s : State) : (applyUpset r u s).params = s.params := rfl
@[simp] theorem applyUpset_ports (r : Request) (u : MapWord) (s : State) : (applyUpset r u s).ports = s.ports := rfl
@[simp] theorem applyUpset_cadenceTimer (r : Request) (u : MapWord) (s : State) : (applyUpset r u s).cadenceTimer = s.cadenceTimer := rfl
@[simp] theorem applyUpset_graders (r : Request) (u : MapWord) (s : State) : (applyUpset r u s).graders = s.graders := rfl
@[simp] theorem applyUpset_errorTimer (r : Request) (u : MapWord) (s : State) : (applyUpset r u s).errorTimer = s.errorTimer := rfl
@[simp] theorem applyUpset_bus (r : Request) (u : MapWord) (s : State) : (applyUpset r u s).bus = s.bus := rfl
@[simp] theorem applyUpset_notices (r : Request) (u : MapWord) (s : State) : (applyUpset r u s).notices = s.notices := rfl
@[simp] theorem applyUpset_counters (r : Request) (u : MapWord) (s : State) : (applyUpset r u s).counters = s.counters := rfl
@[simp] theorem applyUpset_peers (r : Request) (u : MapWord) (s : State) : (applyUpset r u s).peers = s.peers := rfl
@[simp] theorem applyUpset_table (r : Request) (u : MapWord) (s : State) : (applyUpset r u s).table = s.table := rfl
@[simp] theorem applyUpset_engine (r : Request) (u : MapWord) (s : State) : (applyUpset r u s).engine = s.engine := rfl
@[simp] theorem applyUpset_lookup (r : Request) (u : MapWord) (s : State) : (applyUpset r u s).lookup = s.lookup := rfl
@[simp] theorem applyUpset_spi (r : Request) (u : MapWord) (s : State) : (applyUpset r u s).spi = s.spi := rfl
@[simp] theorem applyUpset_events (r : Request) (u : MapWord) (s : State) : (applyUpset r u s).events = s.events := rfl

/-! ### writeBucket -/

@[simp] theorem writeBucket_pending (g : Group) (b : Bucket) (w : MapWord) (s : State) : (writeBucket g b w s).pending = s.pending := rfl
@[simp] theorem writeBucket_freeCount (g : Group) (b : Bucket) (w : MapWord) (s : State) : (writeBucket g b w s).freeCount = s.freeCount := rfl
@[simp] theorem writeBucket_pins (g : Group) (b : Bucket) (w : MapWord) (s : State) : (writeBucket g b w s).pins = s.pins := rfl
@[simp] theorem writeBucket_control (g : Group) (b : Bucket) (w : MapWord) (s : State) : (writeBucket g b w s).control = s.control := rfl
@[simp] theorem writeBucket_loader (g : Group) (b : Bucket) (w : MapWord) (s : State) : (writeBucket g b w s).loader = s.loader := rfl
@[simp] theorem writeBucket_params (g : Group) (b : Bucket) (w : MapWord) (s : State) : (writeBucket g b w s).params = s.params := rfl
@[simp] theorem writeBucket_ports (g : Group) (b : Bucket) (w : MapWord) (s : State) : (writeBucket g b w s).ports = s.ports := rfl
@[simp] theorem writeBucket_cadenceTimer (g : Group) (b : Bucket) (w : MapWord) (s : State) : (writeBucket g b w s).cadenceTimer = s.cadenceTimer := rfl
@[simp] theorem writeBucket_graders (g : Group) (b : Bucket) (w : MapWord) (s : State) : (writeBucket g b w s).graders = s.graders := rfl
@[simp] theorem writeBucket_errorTimer (g : Group) (b : Bucket) (w : MapWord) (s : State) : (writeBucket g b w s).errorTimer = s.errorTimer := rfl
@[simp] theorem writeBucket_bus (g : Group) (b : Bucket) (w : MapWord) (s : State) : (writeBucket g b w s).bus = s.bus := rfl
@[simp] theorem writeBucket_notices (g : Group) (b : Bucket) (w : MapWord) (s : State) : (writeBucket g b w s).notices = s.notices := rfl
@[simp] theorem writeBucket_counters (g : Group) (b : Bucket) (w : MapWord) (s : State) : (writeBucket g b w s).counters = s.counters := rfl
@[simp] theorem writeBucket_peers (g : Group) (b : Bucket) (w : MapWord) (s : State) : (writeBucket g b w s).peers = s.peers := rfl
@[simp] theorem writeBucket_table (g : Group) (b : Bucket) (w : MapWord) (s : State) : (writeBucket g b w s).table = s.table := rfl
@[simp] theorem writeBucket_engine (g : Group) (b : Bucket) (w : MapWord) (s : State) : (writeBucket g b w s).engine = s.engine := rfl
@[simp] theorem writeBucket_lookup (g : Group) (b : Bucket) (w : MapWord) (s : State) : (writeBucket g b w s).lookup = s.lookup := rfl
@[simp] theorem writeBucket_spi (g : Group) (b : Bucket) (w : MapWord) (s : State) : (writeBucket g b w s).spi = s.spi := rfl
@[simp] theorem writeBucket_events (g : Group) (b : Bucket) (w : MapWord) (s : State) : (writeBucket g b w s).events = s.events := rfl

/-! ### deliver -/

@[simp] theorem deliver_pending (r : Request) (l : List Request) (v : Service) (s : State) : (deliver r l v s).pending = s.pending := rfl
@[simp] theorem deliver_freeCount (r : Request) (l : List Request) (v : Service) (s : State) : (deliver r l v s).freeCount = s.freeCount := rfl
@[simp] theorem deliver_pins (r : Request) (l : List Request) (v : Service) (s : State) : (deliver r l v s).pins = s.pins := rfl
@[simp] theorem deliver_control (r : Request) (l : List Request) (v : Service) (s : State) : (deliver r l v s).control = s.control := rfl
@[simp] theorem deliver_loader (r : Request) (l : List Request) (v : Service) (s : State) : (deliver r l v s).loader = s.loader := rfl
@[simp] theorem deliver_params (r : Request) (l : List Request) (v : Service) (s : State) : (deliver r l v s).params = s.params := rfl
@[simp] theorem deliver_ports (r : Request) (l : List Request) (v : Service) (s : State) : (deliver r l v s).ports = s.ports := rfl
@[simp] theorem deliver_cadenceTimer (r : Request) (l : List Request) (v : Service) (s : State) : (deliver r l v s).cadenceTimer = s.cadenceTimer := rfl
@[simp] theorem deliver_graders (r : Request) (l : List Request) (v : Service) (s : State) : (deliver r l v s).graders = s.graders := rfl
@[simp] theorem deliver_errorTimer (r : Request) (l : List Request) (v : Service) (s : State) : (deliver r l v s).errorTimer = s.errorTimer := rfl
@[simp] theorem deliver_bus (r : Request) (l : List Request) (v : Service) (s : State) : (deliver r l v s).bus = s.bus := rfl
@[simp] theorem deliver_notices (r : Request) (l : List Request) (v : Service) (s : State) : (deliver r l v s).notices = s.notices := rfl
@[simp] theorem deliver_counters (r : Request) (l : List Request) (v : Service) (s : State) : (deliver r l v s).counters = s.counters := rfl
@[simp] theorem deliver_peers (r : Request) (l : List Request) (v : Service) (s : State) : (deliver r l v s).peers = s.peers := rfl
@[simp] theorem deliver_table (r : Request) (l : List Request) (v : Service) (s : State) : (deliver r l v s).table = s.table := rfl
@[simp] theorem deliver_engine (r : Request) (l : List Request) (v : Service) (s : State) : (deliver r l v s).engine = s.engine := rfl
@[simp] theorem deliver_map (r : Request) (l : List Request) (v : Service) (s : State) : (deliver r l v s).map = s.map := rfl
@[simp] theorem deliver_spi (r : Request) (l : List Request) (v : Service) (s : State) : (deliver r l v s).spi = s.spi := rfl
@[simp] theorem deliver_events (r : Request) (l : List Request) (v : Service) (s : State) : (deliver r l v s).events = s.events := rfl

/-! ### passIdle -/

@[simp] theorem passIdle_pending (n : Nat) (s : State) : (passIdle n s).pending = s.pending := rfl
@[simp] theorem passIdle_freeCount (n : Nat) (s : State) : (passIdle n s).freeCount = s.freeCount := rfl
@[simp] theorem passIdle_pins (n : Nat) (s : State) : (passIdle n s).pins = s.pins := rfl
@[simp] theorem passIdle_control (n : Nat) (s : State) : (passIdle n s).control = s.control := rfl
@[simp] theorem passIdle_loader (n : Nat) (s : State) : (passIdle n s).loader = s.loader := rfl
@[simp] theorem passIdle_params (n : Nat) (s : State) : (passIdle n s).params = s.params := rfl
@[simp] theorem passIdle_ports (n : Nat) (s : State) : (passIdle n s).ports = s.ports := rfl
@[simp] theorem passIdle_cadenceTimer (n : Nat) (s : State) : (passIdle n s).cadenceTimer = s.cadenceTimer := rfl
@[simp] theorem passIdle_graders (n : Nat) (s : State) : (passIdle n s).graders = s.graders := rfl
@[simp] theorem passIdle_errorTimer (n : Nat) (s : State) : (passIdle n s).errorTimer = s.errorTimer := rfl
@[simp] theorem passIdle_notices (n : Nat) (s : State) : (passIdle n s).notices = s.notices := rfl
@[simp] theorem passIdle_counters (n : Nat) (s : State) : (passIdle n s).counters = s.counters := rfl
@[simp] theorem passIdle_peers (n : Nat) (s : State) : (passIdle n s).peers = s.peers := rfl
@[simp] theorem passIdle_table (n : Nat) (s : State) : (passIdle n s).table = s.table := rfl
@[simp] theorem passIdle_engine (n : Nat) (s : State) : (passIdle n s).engine = s.engine := rfl
@[simp] theorem passIdle_map (n : Nat) (s : State) : (passIdle n s).map = s.map := rfl
@[simp] theorem passIdle_lookup (n : Nat) (s : State) : (passIdle n s).lookup = s.lookup := rfl
@[simp] theorem passIdle_spi (n : Nat) (s : State) : (passIdle n s).spi = s.spi := rfl
@[simp] theorem passIdle_events (n : Nat) (s : State) : (passIdle n s).events = s.events := rfl

/-! ### beginAttempt -/

@[simp] theorem beginAttempt_pending (n : Nat) (e : QueueEntry) (s : State) : (beginAttempt n e s).pending = s.pending := rfl
@[simp] theorem beginAttempt_freeCount (n : Nat) (e : QueueEntry) (s : State) : (beginAttempt n e s).freeCount = s.freeCount := rfl
@[simp] theorem beginAttempt_pins (n : Nat) (e : QueueEntry) (s : State) : (beginAttempt n e s).pins = s.pins := rfl
@[simp] theorem beginAttempt_control (n : Nat) (e : QueueEntry) (s : State) : (beginAttempt n e s).control = s.control := rfl
@[simp] theorem beginAttempt_loader (n : Nat) (e : QueueEntry) (s : State) : (beginAttempt n e s).loader = s.loader := rfl
@[simp] theorem beginAttempt_params (n : Nat) (e : QueueEntry) (s : State) : (beginAttempt n e s).params = s.params := rfl
@[simp] theorem beginAttempt_ports (n : Nat) (e : QueueEntry) (s : State) : (beginAttempt n e s).ports = s.ports := rfl
@[simp] theorem beginAttempt_cadenceTimer (n : Nat) (e : QueueEntry) (s : State) : (beginAttempt n e s).cadenceTimer = s.cadenceTimer := rfl
@[simp] theorem beginAttempt_graders (n : Nat) (e : QueueEntry) (s : State) : (beginAttempt n e s).graders = s.graders := rfl
@[simp] theorem beginAttempt_errorTimer (n : Nat) (e : QueueEntry) (s : State) : (beginAttempt n e s).errorTimer = s.errorTimer := rfl
@[simp] theorem beginAttempt_counters (n : Nat) (e : QueueEntry) (s : State) : (beginAttempt n e s).counters = s.counters := rfl
@[simp] theorem beginAttempt_peers (n : Nat) (e : QueueEntry) (s : State) : (beginAttempt n e s).peers = s.peers := rfl
@[simp] theorem beginAttempt_table (n : Nat) (e : QueueEntry) (s : State) : (beginAttempt n e s).table = s.table := rfl
@[simp] theorem beginAttempt_engine (n : Nat) (e : QueueEntry) (s : State) : (beginAttempt n e s).engine = s.engine := rfl
@[simp] theorem beginAttempt_map (n : Nat) (e : QueueEntry) (s : State) : (beginAttempt n e s).map = s.map := rfl
@[simp] theorem beginAttempt_lookup (n : Nat) (e : QueueEntry) (s : State) : (beginAttempt n e s).lookup = s.lookup := rfl
@[simp] theorem beginAttempt_spi (n : Nat) (e : QueueEntry) (s : State) : (beginAttempt n e s).spi = s.spi := rfl
@[simp] theorem beginAttempt_events (n : Nat) (e : QueueEntry) (s : State) : (beginAttempt n e s).events = s.events := rfl

/-! ### abortAttempt -/

@[simp] theorem abortAttempt_pending (f : InFlight) (s : State) : (abortAttempt f s).pending = s.pending := rfl
@[simp] theorem abortAttempt_freeCount (f : InFlight) (s : State) : (abortAttempt f s).freeCount = s.freeCount := rfl
@[simp] theorem abortAttempt_pins (f : InFlight) (s : State) : (abortAttempt f s).pins = s.pins := rfl
@[simp] theorem abortAttempt_control (f : InFlight) (s : State) : (abortAttempt f s).control = s.control := rfl
@[simp] theorem abortAttempt_loader (f : InFlight) (s : State) : (abortAttempt f s).loader = s.loader := rfl
@[simp] theorem abortAttempt_params (f : InFlight) (s : State) : (abortAttempt f s).params = s.params := rfl
@[simp] theorem abortAttempt_ports (f : InFlight) (s : State) : (abortAttempt f s).ports = s.ports := rfl
@[simp] theorem abortAttempt_cadenceTimer (f : InFlight) (s : State) : (abortAttempt f s).cadenceTimer = s.cadenceTimer := rfl
@[simp] theorem abortAttempt_graders (f : InFlight) (s : State) : (abortAttempt f s).graders = s.graders := rfl
@[simp] theorem abortAttempt_errorTimer (f : InFlight) (s : State) : (abortAttempt f s).errorTimer = s.errorTimer := rfl
@[simp] theorem abortAttempt_notices (f : InFlight) (s : State) : (abortAttempt f s).notices = s.notices := rfl
@[simp] theorem abortAttempt_peers (f : InFlight) (s : State) : (abortAttempt f s).peers = s.peers := rfl
@[simp] theorem abortAttempt_table (f : InFlight) (s : State) : (abortAttempt f s).table = s.table := rfl
@[simp] theorem abortAttempt_engine (f : InFlight) (s : State) : (abortAttempt f s).engine = s.engine := rfl
@[simp] theorem abortAttempt_map (f : InFlight) (s : State) : (abortAttempt f s).map = s.map := rfl
@[simp] theorem abortAttempt_lookup (f : InFlight) (s : State) : (abortAttempt f s).lookup = s.lookup := rfl
@[simp] theorem abortAttempt_spi (f : InFlight) (s : State) : (abortAttempt f s).spi = s.spi := rfl
@[simp] theorem abortAttempt_events (f : InFlight) (s : State) : (abortAttempt f s).events = s.events := rfl

/-! ### completeAttempt -/

@[simp] theorem completeAttempt_pending (f : InFlight) (s : State) : (completeAttempt f s).pending = s.pending := rfl
@[simp] theorem completeAttempt_freeCount (f : InFlight) (s : State) : (completeAttempt f s).freeCount = s.freeCount := rfl
@[simp] theorem completeAttempt_pins (f : InFlight) (s : State) : (completeAttempt f s).pins = s.pins := rfl
@[simp] theorem completeAttempt_control (f : InFlight) (s : State) : (completeAttempt f s).control = s.control := rfl
@[simp] theorem completeAttempt_loader (f : InFlight) (s : State) : (completeAttempt f s).loader = s.loader := rfl
@[simp] theorem completeAttempt_params (f : InFlight) (s : State) : (completeAttempt f s).params = s.params := rfl
@[simp] theorem completeAttempt_ports (f : InFlight) (s : State) : (completeAttempt f s).ports = s.ports := rfl
@[simp] theorem completeAttempt_cadenceTimer (f : InFlight) (s : State) : (completeAttempt f s).cadenceTimer = s.cadenceTimer := rfl
@[simp] theorem completeAttempt_graders (f : InFlight) (s : State) : (completeAttempt f s).graders = s.graders := rfl
@[simp] theorem completeAttempt_errorTimer (f : InFlight) (s : State) : (completeAttempt f s).errorTimer = s.errorTimer := rfl
@[simp] theorem completeAttempt_peers (f : InFlight) (s : State) : (completeAttempt f s).peers = s.peers := rfl
@[simp] theorem completeAttempt_table (f : InFlight) (s : State) : (completeAttempt f s).table = s.table := rfl
@[simp] theorem completeAttempt_engine (f : InFlight) (s : State) : (completeAttempt f s).engine = s.engine := rfl
@[simp] theorem completeAttempt_map (f : InFlight) (s : State) : (completeAttempt f s).map = s.map := rfl
@[simp] theorem completeAttempt_lookup (f : InFlight) (s : State) : (completeAttempt f s).lookup = s.lookup := rfl
@[simp] theorem completeAttempt_spi (f : InFlight) (s : State) : (completeAttempt f s).spi = s.spi := rfl
@[simp] theorem completeAttempt_events (f : InFlight) (s : State) : (completeAttempt f s).events = s.events := rfl

/-! ### hearAttempt -/

@[simp] theorem hearAttempt_pending (f : InFlight) (s : State) : (hearAttempt f s).pending = s.pending := rfl
@[simp] theorem hearAttempt_pins (f : InFlight) (s : State) : (hearAttempt f s).pins = s.pins := rfl
@[simp] theorem hearAttempt_control (f : InFlight) (s : State) : (hearAttempt f s).control = s.control := rfl
@[simp] theorem hearAttempt_loader (f : InFlight) (s : State) : (hearAttempt f s).loader = s.loader := rfl
@[simp] theorem hearAttempt_params (f : InFlight) (s : State) : (hearAttempt f s).params = s.params := rfl
@[simp] theorem hearAttempt_ports (f : InFlight) (s : State) : (hearAttempt f s).ports = s.ports := rfl
@[simp] theorem hearAttempt_cadenceTimer (f : InFlight) (s : State) : (hearAttempt f s).cadenceTimer = s.cadenceTimer := rfl
@[simp] theorem hearAttempt_graders (f : InFlight) (s : State) : (hearAttempt f s).graders = s.graders := rfl
@[simp] theorem hearAttempt_errorTimer (f : InFlight) (s : State) : (hearAttempt f s).errorTimer = s.errorTimer := rfl
@[simp] theorem hearAttempt_notices (f : InFlight) (s : State) : (hearAttempt f s).notices = s.notices := rfl
@[simp] theorem hearAttempt_counters (f : InFlight) (s : State) : (hearAttempt f s).counters = s.counters := rfl
@[simp] theorem hearAttempt_peers (f : InFlight) (s : State) : (hearAttempt f s).peers = s.peers := rfl
@[simp] theorem hearAttempt_table (f : InFlight) (s : State) : (hearAttempt f s).table = s.table := rfl
@[simp] theorem hearAttempt_engine (f : InFlight) (s : State) : (hearAttempt f s).engine = s.engine := rfl
@[simp] theorem hearAttempt_map (f : InFlight) (s : State) : (hearAttempt f s).map = s.map := rfl
@[simp] theorem hearAttempt_lookup (f : InFlight) (s : State) : (hearAttempt f s).lookup = s.lookup := rfl
@[simp] theorem hearAttempt_spi (f : InFlight) (s : State) : (hearAttempt f s).spi = s.spi := rfl
@[simp] theorem hearAttempt_events (f : InFlight) (s : State) : (hearAttempt f s).events = s.events := rfl

/-! ### staleNotice -/

@[simp] theorem staleNotice_pending (n : Notice) (s : State) : (staleNotice n s).pending = s.pending := rfl
@[simp] theorem staleNotice_freeCount (n : Notice) (s : State) : (staleNotice n s).freeCount = s.freeCount := rfl
@[simp] theorem staleNotice_pins (n : Notice) (s : State) : (staleNotice n s).pins = s.pins := rfl
@[simp] theorem staleNotice_control (n : Notice) (s : State) : (staleNotice n s).control = s.control := rfl
@[simp] theorem staleNotice_loader (n : Notice) (s : State) : (staleNotice n s).loader = s.loader := rfl
@[simp] theorem staleNotice_params (n : Notice) (s : State) : (staleNotice n s).params = s.params := rfl
@[simp] theorem staleNotice_ports (n : Notice) (s : State) : (staleNotice n s).ports = s.ports := rfl
@[simp] theorem staleNotice_cadenceTimer (n : Notice) (s : State) : (staleNotice n s).cadenceTimer = s.cadenceTimer := rfl
@[simp] theorem staleNotice_graders (n : Notice) (s : State) : (staleNotice n s).graders = s.graders := rfl
@[simp] theorem staleNotice_errorTimer (n : Notice) (s : State) : (staleNotice n s).errorTimer = s.errorTimer := rfl
@[simp] theorem staleNotice_bus (n : Notice) (s : State) : (staleNotice n s).bus = s.bus := rfl
@[simp] theorem staleNotice_notices (n : Notice) (s : State) : (staleNotice n s).notices = s.notices := rfl
@[simp] theorem staleNotice_table (n : Notice) (s : State) : (staleNotice n s).table = s.table := rfl
@[simp] theorem staleNotice_engine (n : Notice) (s : State) : (staleNotice n s).engine = s.engine := rfl
@[simp] theorem staleNotice_map (n : Notice) (s : State) : (staleNotice n s).map = s.map := rfl
@[simp] theorem staleNotice_lookup (n : Notice) (s : State) : (staleNotice n s).lookup = s.lookup := rfl
@[simp] theorem staleNotice_spi (n : Notice) (s : State) : (staleNotice n s).spi = s.spi := rfl
@[simp] theorem staleNotice_events (n : Notice) (s : State) : (staleNotice n s).events = s.events := rfl

/-! ### handOut -/

@[simp] theorem handOut_pending (r : Vector Byte 28) (s : State) : (handOut r s).pending = s.pending := rfl
@[simp] theorem handOut_freeCount (r : Vector Byte 28) (s : State) : (handOut r s).freeCount = s.freeCount := rfl
@[simp] theorem handOut_pins (r : Vector Byte 28) (s : State) : (handOut r s).pins = s.pins := rfl
@[simp] theorem handOut_cadenceTimer (r : Vector Byte 28) (s : State) : (handOut r s).cadenceTimer = s.cadenceTimer := rfl
@[simp] theorem handOut_graders (r : Vector Byte 28) (s : State) : (handOut r s).graders = s.graders := rfl
@[simp] theorem handOut_errorTimer (r : Vector Byte 28) (s : State) : (handOut r s).errorTimer = s.errorTimer := rfl
@[simp] theorem handOut_bus (r : Vector Byte 28) (s : State) : (handOut r s).bus = s.bus := rfl
@[simp] theorem handOut_notices (r : Vector Byte 28) (s : State) : (handOut r s).notices = s.notices := rfl
@[simp] theorem handOut_counters (r : Vector Byte 28) (s : State) : (handOut r s).counters = s.counters := rfl
@[simp] theorem handOut_peers (r : Vector Byte 28) (s : State) : (handOut r s).peers = s.peers := rfl
@[simp] theorem handOut_engine (r : Vector Byte 28) (s : State) : (handOut r s).engine = s.engine := rfl
@[simp] theorem handOut_map (r : Vector Byte 28) (s : State) : (handOut r s).map = s.map := rfl
@[simp] theorem handOut_lookup (r : Vector Byte 28) (s : State) : (handOut r s).lookup = s.lookup := rfl
@[simp] theorem handOut_spi (r : Vector Byte 28) (s : State) : (handOut r s).spi = s.spi := rfl

/-! ### restartReset -/

@[simp] theorem restartReset_pending (s : State) : (restartReset s).pending = s.pending := rfl
@[simp] theorem restartReset_freeCount (s : State) : (restartReset s).freeCount = s.freeCount := rfl
@[simp] theorem restartReset_pins (s : State) : (restartReset s).pins = s.pins := rfl
@[simp] theorem restartReset_spi (s : State) : (restartReset s).spi = s.spi := rfl

/-! ### powerOnReset -/

@[simp] theorem powerOnReset_pending (s : State) : (powerOnReset s).pending = s.pending := rfl
@[simp] theorem powerOnReset_freeCount (s : State) : (powerOnReset s).freeCount = s.freeCount := rfl
@[simp] theorem powerOnReset_pins (s : State) : (powerOnReset s).pins = s.pins := rfl

/-! ### demand -/

@[simp] theorem demand_pending (d : Demand) (s : State) : (demand d s).pending = s.pending := by
  unfold demand; split <;> rfl
@[simp] theorem demand_freeCount (d : Demand) (s : State) : (demand d s).freeCount = s.freeCount := by
  unfold demand; split <;> rfl
@[simp] theorem demand_pins (d : Demand) (s : State) : (demand d s).pins = s.pins := by
  unfold demand; split <;> rfl
@[simp] theorem demand_control (d : Demand) (s : State) : (demand d s).control = s.control := by
  unfold demand; split <;> rfl
@[simp] theorem demand_loader (d : Demand) (s : State) : (demand d s).loader = s.loader := by
  unfold demand; split <;> rfl
@[simp] theorem demand_params (d : Demand) (s : State) : (demand d s).params = s.params := by
  unfold demand; split <;> rfl
@[simp] theorem demand_ports (d : Demand) (s : State) : (demand d s).ports = s.ports := by
  unfold demand; split <;> rfl
@[simp] theorem demand_cadenceTimer (d : Demand) (s : State) : (demand d s).cadenceTimer = s.cadenceTimer := by
  unfold demand; split <;> rfl
@[simp] theorem demand_graders (d : Demand) (s : State) : (demand d s).graders = s.graders := by
  unfold demand; split <;> rfl
@[simp] theorem demand_errorTimer (d : Demand) (s : State) : (demand d s).errorTimer = s.errorTimer := by
  unfold demand; split <;> rfl
@[simp] theorem demand_notices (d : Demand) (s : State) : (demand d s).notices = s.notices := by
  unfold demand; split <;> rfl
@[simp] theorem demand_counters (d : Demand) (s : State) : (demand d s).counters = s.counters := by
  unfold demand; split <;> rfl
@[simp] theorem demand_peers (d : Demand) (s : State) : (demand d s).peers = s.peers := by
  unfold demand; split <;> rfl
@[simp] theorem demand_table (d : Demand) (s : State) : (demand d s).table = s.table := by
  unfold demand; split <;> rfl
@[simp] theorem demand_engine (d : Demand) (s : State) : (demand d s).engine = s.engine := by
  unfold demand; split <;> rfl
@[simp] theorem demand_map (d : Demand) (s : State) : (demand d s).map = s.map := by
  unfold demand; split <;> rfl
@[simp] theorem demand_lookup (d : Demand) (s : State) : (demand d s).lookup = s.lookup := by
  unfold demand; split <;> rfl
@[simp] theorem demand_spi (d : Demand) (s : State) : (demand d s).spi = s.spi := by
  unfold demand; split <;> rfl
@[simp] theorem demand_events (d : Demand) (s : State) : (demand d s).events = s.events := by
  unfold demand; split <;> rfl

/-! ### demands -/

@[simp] theorem demands_pending (ds : List Demand) (s : State) : (demands ds s).pending = s.pending := by
  induction ds generalizing s with
  | nil => rfl
  | cons d ds ih => exact (ih (demand d s)).trans (demand_pending d s)
@[simp] theorem demands_freeCount (ds : List Demand) (s : State) : (demands ds s).freeCount = s.freeCount := by
  induction ds generalizing s with
  | nil => rfl
  | cons d ds ih => exact (ih (demand d s)).trans (demand_freeCount d s)
@[simp] theorem demands_pins (ds : List Demand) (s : State) : (demands ds s).pins = s.pins := by
  induction ds generalizing s with
  | nil => rfl
  | cons d ds ih => exact (ih (demand d s)).trans (demand_pins d s)
@[simp] theorem demands_control (ds : List Demand) (s : State) : (demands ds s).control = s.control := by
  induction ds generalizing s with
  | nil => rfl
  | cons d ds ih => exact (ih (demand d s)).trans (demand_control d s)
@[simp] theorem demands_loader (ds : List Demand) (s : State) : (demands ds s).loader = s.loader := by
  induction ds generalizing s with
  | nil => rfl
  | cons d ds ih => exact (ih (demand d s)).trans (demand_loader d s)
@[simp] theorem demands_params (ds : List Demand) (s : State) : (demands ds s).params = s.params := by
  induction ds generalizing s with
  | nil => rfl
  | cons d ds ih => exact (ih (demand d s)).trans (demand_params d s)
@[simp] theorem demands_ports (ds : List Demand) (s : State) : (demands ds s).ports = s.ports := by
  induction ds generalizing s with
  | nil => rfl
  | cons d ds ih => exact (ih (demand d s)).trans (demand_ports d s)
@[simp] theorem demands_cadenceTimer (ds : List Demand) (s : State) : (demands ds s).cadenceTimer = s.cadenceTimer := by
  induction ds generalizing s with
  | nil => rfl
  | cons d ds ih => exact (ih (demand d s)).trans (demand_cadenceTimer d s)
@[simp] theorem demands_graders (ds : List Demand) (s : State) : (demands ds s).graders = s.graders := by
  induction ds generalizing s with
  | nil => rfl
  | cons d ds ih => exact (ih (demand d s)).trans (demand_graders d s)
@[simp] theorem demands_errorTimer (ds : List Demand) (s : State) : (demands ds s).errorTimer = s.errorTimer := by
  induction ds generalizing s with
  | nil => rfl
  | cons d ds ih => exact (ih (demand d s)).trans (demand_errorTimer d s)
@[simp] theorem demands_notices (ds : List Demand) (s : State) : (demands ds s).notices = s.notices := by
  induction ds generalizing s with
  | nil => rfl
  | cons d ds ih => exact (ih (demand d s)).trans (demand_notices d s)
@[simp] theorem demands_counters (ds : List Demand) (s : State) : (demands ds s).counters = s.counters := by
  induction ds generalizing s with
  | nil => rfl
  | cons d ds ih => exact (ih (demand d s)).trans (demand_counters d s)
@[simp] theorem demands_peers (ds : List Demand) (s : State) : (demands ds s).peers = s.peers := by
  induction ds generalizing s with
  | nil => rfl
  | cons d ds ih => exact (ih (demand d s)).trans (demand_peers d s)
@[simp] theorem demands_table (ds : List Demand) (s : State) : (demands ds s).table = s.table := by
  induction ds generalizing s with
  | nil => rfl
  | cons d ds ih => exact (ih (demand d s)).trans (demand_table d s)
@[simp] theorem demands_engine (ds : List Demand) (s : State) : (demands ds s).engine = s.engine := by
  induction ds generalizing s with
  | nil => rfl
  | cons d ds ih => exact (ih (demand d s)).trans (demand_engine d s)
@[simp] theorem demands_map (ds : List Demand) (s : State) : (demands ds s).map = s.map := by
  induction ds generalizing s with
  | nil => rfl
  | cons d ds ih => exact (ih (demand d s)).trans (demand_map d s)
@[simp] theorem demands_lookup (ds : List Demand) (s : State) : (demands ds s).lookup = s.lookup := by
  induction ds generalizing s with
  | nil => rfl
  | cons d ds ih => exact (ih (demand d s)).trans (demand_lookup d s)
@[simp] theorem demands_spi (ds : List Demand) (s : State) : (demands ds s).spi = s.spi := by
  induction ds generalizing s with
  | nil => rfl
  | cons d ds ih => exact (ih (demand d s)).trans (demand_spi d s)
@[simp] theorem demands_events (ds : List Demand) (s : State) : (demands ds s).events = s.events := by
  induction ds generalizing s with
  | nil => rfl
  | cons d ds ih => exact (ih (demand d s)).trans (demand_events d s)

/-! ### search -/

@[simp] theorem search_pending (s : State) : (search s).pending = s.pending := by
  unfold search; split
  · split <;> rfl
  · rfl
@[simp] theorem search_freeCount (s : State) : (search s).freeCount = s.freeCount := by
  unfold search; split
  · split <;> rfl
  · rfl
@[simp] theorem search_pins (s : State) : (search s).pins = s.pins := by
  unfold search; split
  · split <;> rfl
  · rfl
@[simp] theorem search_control (s : State) : (search s).control = s.control := by
  unfold search; split
  · split <;> rfl
  · rfl
@[simp] theorem search_loader (s : State) : (search s).loader = s.loader := by
  unfold search; split
  · split <;> rfl
  · rfl
@[simp] theorem search_params (s : State) : (search s).params = s.params := by
  unfold search; split
  · split <;> rfl
  · rfl
@[simp] theorem search_ports (s : State) : (search s).ports = s.ports := by
  unfold search; split
  · split <;> rfl
  · rfl
@[simp] theorem search_cadenceTimer (s : State) : (search s).cadenceTimer = s.cadenceTimer := by
  unfold search; split
  · split <;> rfl
  · rfl
@[simp] theorem search_graders (s : State) : (search s).graders = s.graders := by
  unfold search; split
  · split <;> rfl
  · rfl
@[simp] theorem search_errorTimer (s : State) : (search s).errorTimer = s.errorTimer := by
  unfold search; split
  · split <;> rfl
  · rfl
@[simp] theorem search_bus (s : State) : (search s).bus = s.bus := by
  unfold search; split
  · split <;> rfl
  · rfl
@[simp] theorem search_notices (s : State) : (search s).notices = s.notices := by
  unfold search; split
  · split <;> rfl
  · rfl
@[simp] theorem search_peers (s : State) : (search s).peers = s.peers := by
  unfold search; split
  · split <;> rfl
  · rfl
@[simp] theorem search_map (s : State) : (search s).map = s.map := by
  unfold search; split
  · split <;> rfl
  · rfl
@[simp] theorem search_lookup (s : State) : (search s).lookup = s.lookup := by
  unfold search; split
  · split <;> rfl
  · rfl
@[simp] theorem search_spi (s : State) : (search s).spi = s.spi := by
  unfold search; split
  · split <;> rfl
  · rfl
@[simp] theorem search_events (s : State) : (search s).events = s.events := by
  unfold search; split
  · split <;> rfl
  · rfl

/-! ### movePorts -/

@[simp] theorem movePorts_pending (ps : Vector Port 8) (rs : List Raise) (s : State) : (movePorts ps rs s).pending = s.pending := by
  simp [movePorts]
@[simp] theorem movePorts_pins (ps : Vector Port 8) (rs : List Raise) (s : State) : (movePorts ps rs s).pins = s.pins := by
  simp [movePorts]
@[simp] theorem movePorts_control (ps : Vector Port 8) (rs : List Raise) (s : State) : (movePorts ps rs s).control = s.control := by
  simp [movePorts]
@[simp] theorem movePorts_loader (ps : Vector Port 8) (rs : List Raise) (s : State) : (movePorts ps rs s).loader = s.loader := by
  simp [movePorts]
@[simp] theorem movePorts_params (ps : Vector Port 8) (rs : List Raise) (s : State) : (movePorts ps rs s).params = s.params := by
  simp [movePorts]
@[simp] theorem movePorts_cadenceTimer (ps : Vector Port 8) (rs : List Raise) (s : State) : (movePorts ps rs s).cadenceTimer = s.cadenceTimer := by
  simp [movePorts]
@[simp] theorem movePorts_errorTimer (ps : Vector Port 8) (rs : List Raise) (s : State) : (movePorts ps rs s).errorTimer = s.errorTimer := by
  simp [movePorts]
@[simp] theorem movePorts_notices (ps : Vector Port 8) (rs : List Raise) (s : State) : (movePorts ps rs s).notices = s.notices := by
  simp [movePorts]
@[simp] theorem movePorts_peers (ps : Vector Port 8) (rs : List Raise) (s : State) : (movePorts ps rs s).peers = s.peers := by
  simp [movePorts]
@[simp] theorem movePorts_map (ps : Vector Port 8) (rs : List Raise) (s : State) : (movePorts ps rs s).map = s.map := by
  simp [movePorts]
@[simp] theorem movePorts_lookup (ps : Vector Port 8) (rs : List Raise) (s : State) : (movePorts ps rs s).lookup = s.lookup := by
  simp [movePorts]
@[simp] theorem movePorts_spi (ps : Vector Port 8) (rs : List Raise) (s : State) : (movePorts ps rs s).spi = s.spi := by
  simp [movePorts]

/-! ### movePort -/

@[simp] theorem movePort_pending (p : PortNo) (port : Port) (s : State) : (movePort p port s).pending = s.pending := by
  simp [movePort]
@[simp] theorem movePort_pins (p : PortNo) (port : Port) (s : State) : (movePort p port s).pins = s.pins := by
  simp [movePort]
@[simp] theorem movePort_control (p : PortNo) (port : Port) (s : State) : (movePort p port s).control = s.control := by
  simp [movePort]
@[simp] theorem movePort_loader (p : PortNo) (port : Port) (s : State) : (movePort p port s).loader = s.loader := by
  simp [movePort]
@[simp] theorem movePort_params (p : PortNo) (port : Port) (s : State) : (movePort p port s).params = s.params := by
  simp [movePort]
@[simp] theorem movePort_cadenceTimer (p : PortNo) (port : Port) (s : State) : (movePort p port s).cadenceTimer = s.cadenceTimer := by
  simp [movePort]
@[simp] theorem movePort_errorTimer (p : PortNo) (port : Port) (s : State) : (movePort p port s).errorTimer = s.errorTimer := by
  simp [movePort]
@[simp] theorem movePort_notices (p : PortNo) (port : Port) (s : State) : (movePort p port s).notices = s.notices := by
  simp [movePort]
@[simp] theorem movePort_peers (p : PortNo) (port : Port) (s : State) : (movePort p port s).peers = s.peers := by
  simp [movePort]
@[simp] theorem movePort_map (p : PortNo) (port : Port) (s : State) : (movePort p port s).map = s.map := by
  simp [movePort]
@[simp] theorem movePort_lookup (p : PortNo) (port : Port) (s : State) : (movePort p port s).lookup = s.lookup := by
  simp [movePort]
@[simp] theorem movePort_spi (p : PortNo) (port : Port) (s : State) : (movePort p port s).spi = s.spi := by
  simp [movePort]

/-! ### movePeer -/

@[simp] theorem movePeer_pending (i : StationNo) (p : Peer) (ds : List Demand) (rs : List Raise) (s : State) : (movePeer i p ds rs s).pending = s.pending := by
  simp [movePeer]
@[simp] theorem movePeer_pins (i : StationNo) (p : Peer) (ds : List Demand) (rs : List Raise) (s : State) : (movePeer i p ds rs s).pins = s.pins := by
  simp [movePeer]
@[simp] theorem movePeer_control (i : StationNo) (p : Peer) (ds : List Demand) (rs : List Raise) (s : State) : (movePeer i p ds rs s).control = s.control := by
  simp [movePeer]
@[simp] theorem movePeer_loader (i : StationNo) (p : Peer) (ds : List Demand) (rs : List Raise) (s : State) : (movePeer i p ds rs s).loader = s.loader := by
  simp [movePeer]
@[simp] theorem movePeer_params (i : StationNo) (p : Peer) (ds : List Demand) (rs : List Raise) (s : State) : (movePeer i p ds rs s).params = s.params := by
  simp [movePeer]
@[simp] theorem movePeer_ports (i : StationNo) (p : Peer) (ds : List Demand) (rs : List Raise) (s : State) : (movePeer i p ds rs s).ports = s.ports := by
  simp [movePeer]
@[simp] theorem movePeer_cadenceTimer (i : StationNo) (p : Peer) (ds : List Demand) (rs : List Raise) (s : State) : (movePeer i p ds rs s).cadenceTimer = s.cadenceTimer := by
  simp [movePeer]
@[simp] theorem movePeer_graders (i : StationNo) (p : Peer) (ds : List Demand) (rs : List Raise) (s : State) : (movePeer i p ds rs s).graders = s.graders := by
  simp [movePeer]
@[simp] theorem movePeer_errorTimer (i : StationNo) (p : Peer) (ds : List Demand) (rs : List Raise) (s : State) : (movePeer i p ds rs s).errorTimer = s.errorTimer := by
  simp [movePeer]
@[simp] theorem movePeer_notices (i : StationNo) (p : Peer) (ds : List Demand) (rs : List Raise) (s : State) : (movePeer i p ds rs s).notices = s.notices := by
  simp [movePeer]
@[simp] theorem movePeer_map (i : StationNo) (p : Peer) (ds : List Demand) (rs : List Raise) (s : State) : (movePeer i p ds rs s).map = s.map := by
  simp [movePeer]
@[simp] theorem movePeer_lookup (i : StationNo) (p : Peer) (ds : List Demand) (rs : List Raise) (s : State) : (movePeer i p ds rs s).lookup = s.lookup := by
  simp [movePeer]
@[simp] theorem movePeer_spi (i : StationNo) (p : Peer) (ds : List Demand) (rs : List Raise) (s : State) : (movePeer i p ds rs s).spi = s.spi := by
  simp [movePeer]

/-! ### enterQuiet -/

@[simp] theorem enterQuiet_pending (b : Bool) (s : State) : (enterQuiet b s).pending = s.pending := by
  simp [enterQuiet]
@[simp] theorem enterQuiet_freeCount (b : Bool) (s : State) : (enterQuiet b s).freeCount = s.freeCount := by
  simp [enterQuiet]
@[simp] theorem enterQuiet_pins (b : Bool) (s : State) : (enterQuiet b s).pins = s.pins := by
  simp [enterQuiet]
@[simp] theorem enterQuiet_loader (b : Bool) (s : State) : (enterQuiet b s).loader = s.loader := by
  simp [enterQuiet]
@[simp] theorem enterQuiet_params (b : Bool) (s : State) : (enterQuiet b s).params = s.params := by
  simp [enterQuiet]
@[simp] theorem enterQuiet_ports (b : Bool) (s : State) : (enterQuiet b s).ports = s.ports := by
  simp [enterQuiet]
@[simp] theorem enterQuiet_cadenceTimer (b : Bool) (s : State) : (enterQuiet b s).cadenceTimer = s.cadenceTimer := by
  simp [enterQuiet]
@[simp] theorem enterQuiet_graders (b : Bool) (s : State) : (enterQuiet b s).graders = s.graders := by
  simp [enterQuiet]
@[simp] theorem enterQuiet_errorTimer (b : Bool) (s : State) : (enterQuiet b s).errorTimer = s.errorTimer := by
  simp [enterQuiet]
@[simp] theorem enterQuiet_notices (b : Bool) (s : State) : (enterQuiet b s).notices = s.notices := by
  simp [enterQuiet]
@[simp] theorem enterQuiet_peers (b : Bool) (s : State) : (enterQuiet b s).peers = s.peers := by
  simp [enterQuiet]
@[simp] theorem enterQuiet_map (b : Bool) (s : State) : (enterQuiet b s).map = s.map := by
  simp [enterQuiet]
@[simp] theorem enterQuiet_lookup (b : Bool) (s : State) : (enterQuiet b s).lookup = s.lookup := by
  simp [enterQuiet]
@[simp] theorem enterQuiet_spi (b : Bool) (s : State) : (enterQuiet b s).spi = s.spi := by
  simp [enterQuiet]
@[simp] theorem enterQuiet_events (b : Bool) (s : State) : (enterQuiet b s).events = s.events := by
  simp [enterQuiet]

/-! ### enterConfigFault -/

@[simp] theorem enterConfigFault_pending (c : FaultCause) (l : List I2cElement) (s : State) : (enterConfigFault c l s).pending = s.pending := by
  simp [enterConfigFault]
@[simp] theorem enterConfigFault_pins (c : FaultCause) (l : List I2cElement) (s : State) : (enterConfigFault c l s).pins = s.pins := by
  simp [enterConfigFault]
@[simp] theorem enterConfigFault_params (c : FaultCause) (l : List I2cElement) (s : State) : (enterConfigFault c l s).params = s.params := by
  simp [enterConfigFault]
@[simp] theorem enterConfigFault_ports (c : FaultCause) (l : List I2cElement) (s : State) : (enterConfigFault c l s).ports = s.ports := by
  simp [enterConfigFault]
@[simp] theorem enterConfigFault_cadenceTimer (c : FaultCause) (l : List I2cElement) (s : State) : (enterConfigFault c l s).cadenceTimer = s.cadenceTimer := by
  simp [enterConfigFault]
@[simp] theorem enterConfigFault_graders (c : FaultCause) (l : List I2cElement) (s : State) : (enterConfigFault c l s).graders = s.graders := by
  simp [enterConfigFault]
@[simp] theorem enterConfigFault_errorTimer (c : FaultCause) (l : List I2cElement) (s : State) : (enterConfigFault c l s).errorTimer = s.errorTimer := by
  simp [enterConfigFault]
@[simp] theorem enterConfigFault_bus (c : FaultCause) (l : List I2cElement) (s : State) : (enterConfigFault c l s).bus = s.bus := by
  simp [enterConfigFault]
@[simp] theorem enterConfigFault_notices (c : FaultCause) (l : List I2cElement) (s : State) : (enterConfigFault c l s).notices = s.notices := by
  simp [enterConfigFault]
@[simp] theorem enterConfigFault_counters (c : FaultCause) (l : List I2cElement) (s : State) : (enterConfigFault c l s).counters = s.counters := by
  simp [enterConfigFault]
@[simp] theorem enterConfigFault_peers (c : FaultCause) (l : List I2cElement) (s : State) : (enterConfigFault c l s).peers = s.peers := by
  simp [enterConfigFault]
@[simp] theorem enterConfigFault_table (c : FaultCause) (l : List I2cElement) (s : State) : (enterConfigFault c l s).table = s.table := by
  simp [enterConfigFault]
@[simp] theorem enterConfigFault_engine (c : FaultCause) (l : List I2cElement) (s : State) : (enterConfigFault c l s).engine = s.engine := by
  simp [enterConfigFault]
@[simp] theorem enterConfigFault_map (c : FaultCause) (l : List I2cElement) (s : State) : (enterConfigFault c l s).map = s.map := by
  simp [enterConfigFault]
@[simp] theorem enterConfigFault_lookup (c : FaultCause) (l : List I2cElement) (s : State) : (enterConfigFault c l s).lookup = s.lookup := by
  simp [enterConfigFault]
@[simp] theorem enterConfigFault_spi (c : FaultCause) (l : List I2cElement) (s : State) : (enterConfigFault c l s).spi = s.spi := by
  simp [enterConfigFault]

/-! ### enterJoining -/

@[simp] theorem enterJoining_pending (s : State) : (enterJoining s).pending = s.pending := by
  simp [enterJoining]
@[simp] theorem enterJoining_freeCount (s : State) : (enterJoining s).freeCount = s.freeCount := by
  simp [enterJoining]
@[simp] theorem enterJoining_pins (s : State) : (enterJoining s).pins = s.pins := by
  simp [enterJoining]
@[simp] theorem enterJoining_loader (s : State) : (enterJoining s).loader = s.loader := by
  simp [enterJoining]
@[simp] theorem enterJoining_params (s : State) : (enterJoining s).params = s.params := by
  simp [enterJoining]
@[simp] theorem enterJoining_ports (s : State) : (enterJoining s).ports = s.ports := by
  simp [enterJoining]
@[simp] theorem enterJoining_graders (s : State) : (enterJoining s).graders = s.graders := by
  simp [enterJoining]
@[simp] theorem enterJoining_counters (s : State) : (enterJoining s).counters = s.counters := by
  simp [enterJoining]
@[simp] theorem enterJoining_peers (s : State) : (enterJoining s).peers = s.peers := by
  simp [enterJoining]
@[simp] theorem enterJoining_table (s : State) : (enterJoining s).table = s.table := by
  simp [enterJoining]
@[simp] theorem enterJoining_engine (s : State) : (enterJoining s).engine = s.engine := by
  simp [enterJoining]
@[simp] theorem enterJoining_map (s : State) : (enterJoining s).map = s.map := by
  simp [enterJoining]
@[simp] theorem enterJoining_lookup (s : State) : (enterJoining s).lookup = s.lookup := by
  simp [enterJoining]
@[simp] theorem enterJoining_spi (s : State) : (enterJoining s).spi = s.spi := by
  simp [enterJoining]
@[simp] theorem enterJoining_events (s : State) : (enterJoining s).events = s.events := by
  simp [enterJoining]

/-! ### wakeUp -/

@[simp] theorem wakeUp_pending (s : State) : (wakeUp s).pending = s.pending := by
  simp [wakeUp]
@[simp] theorem wakeUp_freeCount (s : State) : (wakeUp s).freeCount = s.freeCount := by
  simp [wakeUp]
@[simp] theorem wakeUp_pins (s : State) : (wakeUp s).pins = s.pins := by
  simp [wakeUp]
@[simp] theorem wakeUp_loader (s : State) : (wakeUp s).loader = s.loader := by
  simp [wakeUp]
@[simp] theorem wakeUp_params (s : State) : (wakeUp s).params = s.params := by
  simp [wakeUp]
@[simp] theorem wakeUp_ports (s : State) : (wakeUp s).ports = s.ports := by
  simp [wakeUp]
@[simp] theorem wakeUp_cadenceTimer (s : State) : (wakeUp s).cadenceTimer = s.cadenceTimer := by
  simp [wakeUp]
@[simp] theorem wakeUp_graders (s : State) : (wakeUp s).graders = s.graders := by
  simp [wakeUp]
@[simp] theorem wakeUp_errorTimer (s : State) : (wakeUp s).errorTimer = s.errorTimer := by
  simp [wakeUp]
@[simp] theorem wakeUp_notices (s : State) : (wakeUp s).notices = s.notices := by
  simp [wakeUp]
@[simp] theorem wakeUp_counters (s : State) : (wakeUp s).counters = s.counters := by
  simp [wakeUp]
@[simp] theorem wakeUp_peers (s : State) : (wakeUp s).peers = s.peers := by
  simp [wakeUp]
@[simp] theorem wakeUp_table (s : State) : (wakeUp s).table = s.table := by
  simp [wakeUp]
@[simp] theorem wakeUp_engine (s : State) : (wakeUp s).engine = s.engine := by
  simp [wakeUp]
@[simp] theorem wakeUp_map (s : State) : (wakeUp s).map = s.map := by
  simp [wakeUp]
@[simp] theorem wakeUp_lookup (s : State) : (wakeUp s).lookup = s.lookup := by
  simp [wakeUp]
@[simp] theorem wakeUp_spi (s : State) : (wakeUp s).spi = s.spi := by
  simp [wakeUp]
@[simp] theorem wakeUp_events (s : State) : (wakeUp s).events = s.events := by
  simp [wakeUp]

/-! ### flip -/

@[simp] theorem flip_pending (g : Group) (s : State) : (flip g s).pending = s.pending := by
  simp [flip]
@[simp] theorem flip_freeCount (g : Group) (s : State) : (flip g s).freeCount = s.freeCount := by
  simp [flip]
@[simp] theorem flip_pins (g : Group) (s : State) : (flip g s).pins = s.pins := by
  simp [flip]
@[simp] theorem flip_control (g : Group) (s : State) : (flip g s).control = s.control := by
  simp [flip]
@[simp] theorem flip_loader (g : Group) (s : State) : (flip g s).loader = s.loader := by
  simp [flip]
@[simp] theorem flip_params (g : Group) (s : State) : (flip g s).params = s.params := by
  simp [flip]
@[simp] theorem flip_ports (g : Group) (s : State) : (flip g s).ports = s.ports := by
  simp [flip]
@[simp] theorem flip_cadenceTimer (g : Group) (s : State) : (flip g s).cadenceTimer = s.cadenceTimer := by
  simp [flip]
@[simp] theorem flip_graders (g : Group) (s : State) : (flip g s).graders = s.graders := by
  simp [flip]
@[simp] theorem flip_errorTimer (g : Group) (s : State) : (flip g s).errorTimer = s.errorTimer := by
  simp [flip]
@[simp] theorem flip_bus (g : Group) (s : State) : (flip g s).bus = s.bus := by
  simp [flip]
@[simp] theorem flip_notices (g : Group) (s : State) : (flip g s).notices = s.notices := by
  simp [flip]
@[simp] theorem flip_peers (g : Group) (s : State) : (flip g s).peers = s.peers := by
  simp [flip]
@[simp] theorem flip_lookup (g : Group) (s : State) : (flip g s).lookup = s.lookup := by
  simp [flip]
@[simp] theorem flip_spi (g : Group) (s : State) : (flip g s).spi = s.spi := by
  simp [flip]
@[simp] theorem flip_events (g : Group) (s : State) : (flip g s).events = s.events := by
  simp [flip]

/-! ### mapFault -/

@[simp] theorem mapFault_pending (g : Group) (s : State) : (mapFault g s).pending = s.pending := by
  simp [mapFault]
@[simp] theorem mapFault_pins (g : Group) (s : State) : (mapFault g s).pins = s.pins := by
  simp [mapFault]
@[simp] theorem mapFault_control (g : Group) (s : State) : (mapFault g s).control = s.control := by
  simp [mapFault]
@[simp] theorem mapFault_loader (g : Group) (s : State) : (mapFault g s).loader = s.loader := by
  simp [mapFault]
@[simp] theorem mapFault_params (g : Group) (s : State) : (mapFault g s).params = s.params := by
  simp [mapFault]
@[simp] theorem mapFault_ports (g : Group) (s : State) : (mapFault g s).ports = s.ports := by
  simp [mapFault]
@[simp] theorem mapFault_cadenceTimer (g : Group) (s : State) : (mapFault g s).cadenceTimer = s.cadenceTimer := by
  simp [mapFault]
@[simp] theorem mapFault_graders (g : Group) (s : State) : (mapFault g s).graders = s.graders := by
  simp [mapFault]
@[simp] theorem mapFault_errorTimer (g : Group) (s : State) : (mapFault g s).errorTimer = s.errorTimer := by
  simp [mapFault]
@[simp] theorem mapFault_bus (g : Group) (s : State) : (mapFault g s).bus = s.bus := by
  simp [mapFault]
@[simp] theorem mapFault_notices (g : Group) (s : State) : (mapFault g s).notices = s.notices := by
  simp [mapFault]
@[simp] theorem mapFault_peers (g : Group) (s : State) : (mapFault g s).peers = s.peers := by
  simp [mapFault]
@[simp] theorem mapFault_map (g : Group) (s : State) : (mapFault g s).map = s.map := by
  simp [mapFault]
@[simp] theorem mapFault_lookup (g : Group) (s : State) : (mapFault g s).lookup = s.lookup := by
  simp [mapFault]
@[simp] theorem mapFault_spi (g : Group) (s : State) : (mapFault g s).spi = s.spi := by
  simp [mapFault]

/-! ### parityFailed -/

@[simp] theorem parityFailed_pending (g : Group) (s : State) : (parityFailed g s).pending = s.pending := by
  unfold parityFailed; split <;> simp
@[simp] theorem parityFailed_pins (g : Group) (s : State) : (parityFailed g s).pins = s.pins := by
  unfold parityFailed; split <;> simp
@[simp] theorem parityFailed_control (g : Group) (s : State) : (parityFailed g s).control = s.control := by
  unfold parityFailed; split <;> simp
@[simp] theorem parityFailed_loader (g : Group) (s : State) : (parityFailed g s).loader = s.loader := by
  unfold parityFailed; split <;> simp
@[simp] theorem parityFailed_params (g : Group) (s : State) : (parityFailed g s).params = s.params := by
  unfold parityFailed; split <;> simp
@[simp] theorem parityFailed_ports (g : Group) (s : State) : (parityFailed g s).ports = s.ports := by
  unfold parityFailed; split <;> simp
@[simp] theorem parityFailed_cadenceTimer (g : Group) (s : State) : (parityFailed g s).cadenceTimer = s.cadenceTimer := by
  unfold parityFailed; split <;> simp
@[simp] theorem parityFailed_graders (g : Group) (s : State) : (parityFailed g s).graders = s.graders := by
  unfold parityFailed; split <;> simp
@[simp] theorem parityFailed_errorTimer (g : Group) (s : State) : (parityFailed g s).errorTimer = s.errorTimer := by
  unfold parityFailed; split <;> simp
@[simp] theorem parityFailed_bus (g : Group) (s : State) : (parityFailed g s).bus = s.bus := by
  unfold parityFailed; split <;> simp
@[simp] theorem parityFailed_notices (g : Group) (s : State) : (parityFailed g s).notices = s.notices := by
  unfold parityFailed; split <;> simp
@[simp] theorem parityFailed_peers (g : Group) (s : State) : (parityFailed g s).peers = s.peers := by
  unfold parityFailed; split <;> simp
@[simp] theorem parityFailed_map (g : Group) (s : State) : (parityFailed g s).map = s.map := by
  unfold parityFailed; split <;> simp
@[simp] theorem parityFailed_lookup (g : Group) (s : State) : (parityFailed g s).lookup = s.lookup := by
  unfold parityFailed; split <;> simp
@[simp] theorem parityFailed_spi (g : Group) (s : State) : (parityFailed g s).spi = s.spi := by
  unfold parityFailed; split <;> simp

/-! ### clash -/

@[simp] theorem clash_pending (s : State) : (clash s).pending = s.pending := by
  unfold clash; split <;> (try split) <;> simp
@[simp] theorem clash_pins (s : State) : (clash s).pins = s.pins := by
  unfold clash; split <;> (try split) <;> simp
@[simp] theorem clash_spi (s : State) : (clash s).spi = s.spi := by
  unfold clash; split <;> (try split) <;> simp

/-! ### What the moved fields hold -/

@[simp] theorem movePorts_ports (ps : Vector Port 8) (rs : List Raise) (s : State) :
    (movePorts ps rs s).ports = ps := by
  simp [movePorts]
@[simp] theorem movePort_ports (p : PortNo) (port : Port) (s : State) :
    (movePort p port s).ports = s.ports.set p port := by
  simp [movePort]
@[simp] theorem movePorts_graders (ps : Vector Port 8) (rs : List Raise) (s : State) :
    (movePorts ps rs s).graders = Vector.ofFn fun p : PortNo => graderAfter ps[p] s.graders[p] := by
  simp [movePorts]
@[simp] theorem changePeer_peers (i : StationNo) (p : Peer) (s : State) :
    (changePeer i p s).peers = s.peers.set i p := rfl
@[simp] theorem movePeer_peers (i : StationNo) (p : Peer) (ds : List Demand) (rs : List Raise) (s : State) :
    (movePeer i p ds rs s).peers = s.peers.set i p := by
  simp [movePeer]
@[simp] theorem enterQuiet_control (b : Bool) (s : State) :
    (enterQuiet b s).control =
      { s.control with station := .quiet, settle := .stopped, restartPending := b } := by
  simp [enterQuiet]
@[simp] theorem wakeUp_control (s : State) :
    (wakeUp s).control = { s.control with station := .joining, settle := settleTime s.params } := by
  simp [wakeUp]
@[simp] theorem enterJoining_control (s : State) :
    (enterJoining s).control = { s.control with station := .joining, settle := settleTime s.params } := by
  simp [enterJoining]
@[simp] theorem raiseEvents_events (rs : List Raise) (s : State) :
    (raiseEvents rs s).events = raiseFlags (Config.raiseFirst s.freeCount) rs s.events := rfl
@[simp] theorem search_rows (s : State) : (search s).table.rows = s.table.rows := by
  unfold search; split
  · split <;> rfl
  · rfl
@[simp] theorem search_digest (s : State) : (search s).table.digest = s.table.digest := by
  unfold search; split
  · split <;> rfl
  · rfl
@[simp] theorem search_pointer (s : State) : (search s).engine.pointer = s.engine.pointer := by
  unfold search; split
  · split <;> rfl
  · rfl
@[simp] theorem search_fault (s : State) : (search s).engine.fault = s.engine.fault := by
  unfold search; split
  · split <;> rfl
  · rfl
@[simp] theorem search_retried (s : State) : (search s).engine.retried = s.engine.retried := by
  unfold search; split
  · split <;> rfl
  · rfl

end Sys2Proof.Machine
end

