-- ==== Sys2Proof/Laws/Ops.lean ====
section
/-! SUPPORT. One lemma per shared operation that says what it can do: the search, a demand, the raises, a change of
one row of the candidate table, the cells that pass the clock recovery and echo compare, the head of the queue, the
loader on its bus. -/

namespace Sys2Proof.Machine

/-! ### The search (R137, R139) -/

/-- A search changes nothing, or starts a recompute of the group it takes. -/
theorem search_cases (s : State) :
    search s = s ∨
    ∃ g, s.engine.run = .idle ∧ engineMayStart s.control.station = true ∧ groupToTake s = some g ∧
      search s = startRecompute g s := by
  unfold search
  by_cases h : s.engine.run = .idle ∧ engineMayStart s.control.station = true
  · rw [if_pos h]
    cases hg : groupToTake s with
    | none => exact Or.inl rfl
    | some g => exact Or.inr ⟨g, h.1, h.2, rfl, rfl⟩
  · rw [if_neg h]; exact Or.inl rfl

/-- A group that a search takes is dirty and not faulted. -/
theorem groupToTake_qualifies {s : State} {g : Group} (h : groupToTake s = some g) :
    s.table.dirty[g] = true ∧ s.engine.fault[g] = false := by
  have hq := List.find?_some h
  unfold qualifies at hq
  simp only [Bool.and_eq_true, Bool.not_eq_true'] at hq
  exact hq

/-- An engine that is IDLE after a search has no group that it may take. -/
theorem search_idle {s : State} (h : (search s).engine.run = .idle) (hm : engineMayStart s.control.station = true) :
    groupToTake s = none ∧ search s = s := by
  rcases search_cases s with hs | ⟨g, hi, _, _, hs⟩
  · rw [hs] at h
    refine ⟨?_, hs⟩
    unfold search at hs
    rw [if_pos ⟨h, hm⟩] at hs
    cases hg : groupToTake s with
    | none => rfl
    | some g =>
      rw [hg] at hs
      have hr : (startRecompute g s).engine.run = s.engine.run := congrArg (fun s => s.engine.run) hs
      rw [h] at hr
      exact absurd hr (by simp [startRecompute, bump])
  · rw [hs] at h; exact absurd h (by simp [startRecompute, bump])

theorem searchOrder_eq (p : Group) : searchOrder p = (List.finRange 4).map fun k => p + 1 + k := by
  revert p; decide

/-- A group taken is the first that qualifies, in the order of the search. -/
theorem groupToTake_eq_some {s : State} {g : Group} :
    groupToTake s = some g ↔
      FirstAfter s.engine.pointer (fun h => s.table.dirty[h] = true ∧ s.engine.fault[h] = false) g := by
  have hq : ∀ h, qualifies s h = true ↔ s.table.dirty[h] = true ∧ s.engine.fault[h] = false := by
    intro h; simp [qualifies]
  unfold groupToTake FirstAfter
  rw [searchOrder_eq, List.find?_map, Option.map_eq_some_iff]
  constructor
  · rintro ⟨k, hk, rfl⟩
    have hp := List.find?_some hk
    refine ⟨k, rfl, (hq _).mp hp, fun j hj hn => ?_⟩
    rw [List.find?_eq_some_iff_getElem] at hk
    obtain ⟨-, i, hi, he, hb⟩ := hk
    have : (i : Nat) = k := by rw [← he]; simp
    have := hb j.val (by omega)
    simp only [List.getElem_finRange, Function.comp] at this
    exact absurd ((hq _).mpr hn) (by simpa using this)
  · rintro ⟨k, rfl, hk, hb⟩
    refine ⟨k, ?_, rfl⟩
    rw [List.find?_eq_some_iff_getElem]
    refine ⟨(hq _).mpr hk, k.val, by simp, by simp, fun j hj => ?_⟩
    have := mt (hq _).mp (hb ⟨j, by omega⟩ (Fin.lt_def.mpr (by simpa using hj)))
    simpa [Function.comp] using this

/-- No group is taken exactly where none qualifies. -/
theorem groupToTake_eq_none {s : State} :
    groupToTake s = none ↔ ∀ h : Group, ¬ (s.table.dirty[h] = true ∧ s.engine.fault[h] = false) := by
  have mem : ∀ p h : Group, h ∈ searchOrder p := by decide
  unfold groupToTake
  rw [List.find?_eq_none]
  exact ⟨fun hn h hq => hn h (mem _ h) (by simpa [qualifies] using hq), fun hn h _ => by simpa [qualifies] using hn h⟩

/-- What a search leaves, whatever the state (R137, R138, R139). -/
theorem search_follows (s : State) :
    SearchFollows s.engine (fun h => s.table.dirty[h] = true) s (search s) := by
  refine ⟨fun g hi hm hf => ?_, fun h => ?_⟩
  · rw [search_control] at hm
    have hs : search s = startRecompute g s := by
      unfold search; rw [if_pos ⟨hi, hm⟩, groupToTake_eq_some.mpr hf]
    rw [hs]
    refine ⟨rfl, by simp [startRecompute, bump, counterOf], fun h => ?_⟩
    by_cases hg : h = g
    · subst hg; simp [startRecompute, bump]
    · have hv : (g : Nat) ≠ (h : Nat) := fun he => hg (Fin.ext he.symm)
      simp [startRecompute, bump, hg, Vector.getElem_set_ne, hv]
  · have hs : search s = s := by
      rcases search_cases s with hs | ⟨g, hi, hm, hg, -⟩
      · exact hs
      · rw [search_control] at h
        rcases h with h | h | h
        · exact absurd hi h
        · rw [hm] at h; cases h
        · rw [groupToTake_eq_none.mpr h] at hg; cases hg
    rw [hs]; exact ⟨rfl, rfl, fun _ => Iff.rfl⟩

/-! ### Demands (R69) -/

/-- A candidate snapshot is in rising id order, with no id twice and every weight at least 1 (R114, R136). -/
theorem snapshotOf_ordered (rows : Vector (Vector Candidate 8) 16) (g : Group) :
    ((snapshotOf rows g).map SnapshotPair.uplink).Pairwise (· < ·) ∧
    ∀ pair ∈ snapshotOf rows g, 1 ≤ pair.weight.toNat := by
  constructor
  · have hs : (snapshotOf rows g).map SnapshotPair.uplink =
        (List.finRange 128).filter fun u => isCandidateOf g (candidateAt rows u) := by
      unfold snapshotOf
      rw [List.map_filterMap, ← List.filterMap_eq_filter]
      refine List.filterMap_congr fun u _ => ?_
      by_cases h : isCandidateOf g (candidateAt rows u) = true <;> simp [h, Option.guard]
    rw [hs]
    exact (List.pairwise_lt_finRange 128).filter _
  · intro pair hp
    obtain ⟨u, _, hu⟩ := List.mem_filterMap.mp hp
    split at hu
    next hc =>
      cases hu
      have hw : (candidateAt rows u).weight ≠ 0 := by
        unfold isCandidateOf isCandidate at hc
        split at hc <;> simp_all
      exact Nat.one_le_iff_ne_zero.mpr fun hz => hw (BitVec.eq_of_toNat_eq hz)
    next => cases hu

/-- A demand is dropped, or acts on the transmit queue. -/
theorem demand_cases (d : Demand) (s : State) :
    (transmitAllowed s.control.station (demandKind d) = false ∧ demand d s = s) ∨
    (transmitAllowed s.control.station (demandKind d) = true ∧
      demand d s = { s with bus := queueDemand d s.bus }) := by
  unfold demand
  by_cases h : transmitAllowed s.control.station (demandKind d) = true
  · exact Or.inr ⟨h, if_pos h⟩
  · exact Or.inl ⟨Bool.not_eq_true _ ▸ h, if_neg h⟩

/-- What a demand other than a LEAVE does (R1, R69). -/
theorem demand_demands {d : Demand} (h : d ≠ .leave) (s : State) :
    Demands (demandKind d) (d == .alert) s (demand d s) := by
  refine ⟨fun ha hl => ?_, fun hd => ?_⟩
  · unfold demand
    rw [if_pos ha]
    unfold queueDemand mergeDemand
    rw [if_neg h, hl, if_neg (by decide)]
    refine ⟨rfl, fun ⟨e, he, hk⟩ => ?_, fun hn => ?_⟩
    · exact if_pos (List.any_eq_true.mpr ⟨e, he, by simpa using hk⟩)
    · exact if_neg (by simpa using hn)
  · unfold demand DemandsNothing
    split
    next ha =>
      have hl : leaveStands s.bus = true := hd.resolve_left (by simp [ha])
      unfold queueDemand
      rw [if_neg h, if_pos hl]
      exact ⟨rfl, rfl⟩
    next => exact ⟨rfl, rfl⟩

/-- A demand leaves everything of the bus but the queue and the final mark of the notice in flight. -/
theorem queueDemand_frame (d : Demand) (b : Bus) :
    (queueDemand d b).driver = b.driver ∧ (queueDemand d b).recovery = b.recovery ∧
    (queueDemand d b).boundary = b.boundary ∧ (queueDemand d b).missed = b.missed ∧
    (queueDemand d b).receiver = b.receiver ∧ (queueDemand d b).line = b.line ∧
    (queueDemand d b).idleCount = b.idleCount ∧ (queueDemand d b).backoff = b.backoff := by
  unfold queueDemand
  split
  · simp
  · split <;> simp

/-! ### Raises (R174 to R176) -/

theorem agreeEvents_agrees (e : EventUnit) :
    (agreeEvents e).severity = severityFor (agreeEvents e).pending (agreeEvents e).mask ∧
    (agreeEvents e).interrupt = interruptFor (agreeEvents e).pending (agreeEvents e).mask := ⟨rfl, rfl⟩

theorem withFlags_keeps (flags : BitVec 12) (rs : List Raise) {n : Nat} (h : flags.getLsbD n = true) :
    (withFlags flags rs).getLsbD n = true := by
  unfold withFlags
  induction rs generalizing flags with
  | nil => exact h
  | cons r rs ih => exact ih _ (by simp [BitVec.getLsbD_or, h])

theorem withFlags_sets (flags : BitVec 12) {r : Raise} {rs : List Raise} (h : r ∈ rs) :
    (withFlags flags rs).getLsbD (eventNumber r.kind) = true := by
  induction rs generalizing flags with
  | nil => cases h
  | cons q rs ih =>
    rcases List.mem_cons.mp h with rfl | h
    · refine withFlags_keeps (flags ||| eventBit r.kind) rs ?_
      rw [BitVec.getLsbD_or]
      have : (eventBit r.kind).getLsbD (eventNumber r.kind) = true := by
        cases r.kind <;> decide
      rw [this, Bool.or_true]
    · exact ih _ h

theorem withFlags_ne_zero (flags : BitVec 12) {rs : List Raise} (h : rs ≠ []) : withFlags flags rs ≠ 0 := by
  intro hz
  cases rs with
  | nil => exact h rfl
  | cons r rs =>
    have := withFlags_sets flags (List.mem_cons_self (a := r) (l := rs))
    rw [hz] at this
    simp at this

/-- The raises of one event keep the interrupt, the severity and the record in agreement with the flags. -/
theorem raiseEvents_eventsOk (rs : List Raise) {s : State} (h : EventsOk s) : EventsOk (raiseEvents rs s) := by
  unfold EventsOk at h ⊢
  rw [raiseEvents_events]
  unfold raiseFlags
  cases rs with
  | nil => exact h
  | cons r rs => exact ⟨rfl, rfl, fun hz => absurd hz (withFlags_ne_zero _ (List.cons_ne_nil _ _))⟩

/-- The kind counts, as the model computes it. -/
theorem countsForInterrupt_iff (mask : BitVec 12) (k : EventKind) :
    countsForInterrupt mask k = true ↔ Counts mask k := by
  simp [countsForInterrupt, Counts]

theorem mem_eventKinds (k : EventKind) : k ∈ eventKinds := by cases k <;> decide

/-- The interrupt output and the pending severity of flags and mask agree with them (R176). -/
theorem agrees_agreeEvents (e : EventUnit) : Agrees (agreeEvents e) := by
  have po : ∀ v, pendingOf e.pending e.mask v = true ↔
      ∃ k, isPending e.pending k = true ∧ Counts e.mask k ∧ eventSeverity k = v := by
    intro v
    simp only [pendingOf, List.any_eq_true, Bool.and_eq_true, beq_iff_eq, countsForInterrupt_iff]
    exact ⟨fun ⟨k, _, ⟨h, c⟩, e⟩ => ⟨k, h, c, e⟩, fun ⟨k, h, c, e⟩ => ⟨k, mem_eventKinds k, ⟨h, c⟩, e⟩⟩
  have some_of : ∀ v, pendingOf e.pending e.mask v = true →
      ∃ k, isPending e.pending k = true ∧ Counts e.mask k ∧ eventSeverity k = v := fun v => (po v).mp
  refine ⟨?_, fun k hk hc => ?_, fun hn => ?_⟩
  · simp only [agreeEvents, interruptFor, List.any_eq_true, Bool.and_eq_true, countsForInterrupt_iff]
    exact ⟨fun ⟨k, _, h⟩ => ⟨k, h⟩, fun ⟨k, h⟩ => ⟨k, mem_eventKinds k, h⟩⟩
  · have hp : pendingOf e.pending e.mask (eventSeverity k) = true := (po _).mpr ⟨k, hk, hc, rfl⟩
    show _ ≤ (severityCode (severityFor e.pending e.mask)).toNat
    unfold severityFor
    cases hv : eventSeverity k <;> rw [hv] at hp <;> split_ifs <;> simp_all [severityCode]
  · show ∃ k, _ ∧ _ ∧ eventSeverity k = severityFor e.pending e.mask
    unfold severityFor at hn ⊢
    change (if _ then Severity.fatal else _) ≠ _ at hn
    split_ifs at hn ⊢ <;> first | exact some_of _ (by assumption) | exact absurd rfl hn

/-- INT_N is driven low exactly while a pending flag counts for the interrupt (R176, R182). -/
theorem interruptPin_drivenLow {e : EventUnit} (h : Agrees e) :
    interruptPin e = .drivenLow ↔ ∃ k, isPending e.pending k = true ∧ Counts e.mask k := by
  rw [← h.1, interruptPin]
  split <;> simp_all

/-- A flag after some raises: set before, or that of a kind raised. -/
theorem isPending_withFlags (rs : List Raise) (flags : BitVec 12) (k : EventKind) :
    isPending (withFlags flags rs) k = true ↔ isPending flags k = true ∨ ∃ r ∈ rs, r.kind = k := by
  induction rs generalizing flags with
  | nil => simp [withFlags]
  | cons r rs ih =>
    have hb : isPending (flags ||| eventBit r.kind) k = true ↔ isPending flags k = true ∨ r.kind = k := by
      unfold isPending
      rw [BitVec.getLsbD_or, Bool.or_eq_true]
      refine or_congr_right ?_
      cases r.kind <;> cases k <;> decide
    have := ih (flags ||| eventBit r.kind)
    simp only [withFlags, List.foldl_cons] at this ⊢
    rw [this, hb]
    simp [or_assoc]

/-- A raise taken first is one of those there are, and there is one where there are any. -/
theorem firstTaken_mem {n : Nat} {l : List Raise} (h : l ≠ []) : ∃ r ∈ l, firstTaken n l = some r := by
  match l, h with
  | [r], _ => exact ⟨r, by simp, rfl⟩
  | r :: r' :: rest, _ =>
    have hlt : n % (r :: r' :: rest).length < (r :: r' :: rest).length := Nat.mod_lt _ (by simp)
    refine ⟨_, List.getElem_mem hlt, ?_⟩
    simp only [firstTaken, List.getD_eq_getElem?_getD, List.getElem?_eq_getElem hlt, Option.getD_some]

/-- What the raises of one event leave (R174, R175, R176). -/
theorem raiseEvents_raises (rs : List Raise) (s : State) : Raises rs s (raiseEvents rs s) := by
  have mem : ∀ r, r ∈ fillingRaises s.events rs ↔ r ∈ rs ∧ Fills s.events r := by
    intro r; simp [fillingRaises, Fills, countsForInterrupt_iff]
  refine ⟨fun h => ?_, fun h => ?_⟩
  · subst h; rfl
  have he : rs.isEmpty = false := by simpa using h
  rw [raiseEvents_events]
  unfold raiseFlags
  rw [he]
  simp only [Bool.false_eq_true, if_false]
  refine ⟨fun k => isPending_withFlags rs s.events.pending k, rfl, fun r hr => ?_, fun hr hn => ?_, fun hr hf => ?_,
    agrees_agreeEvents _⟩
  · simp [agreeEvents, hr]
  · have : fillingRaises s.events rs = [] := by
      rw [List.eq_nil_iff_forall_not_mem]
      intro r hm
      exact hn r ((mem r).mp hm).1 ((mem r).mp hm).2
    simp [agreeEvents, hr, this, firstTaken]
  · obtain ⟨r, hm, hF⟩ := hf
    obtain ⟨q, hq, ht⟩ := firstTaken_mem (n := Config.raiseFirst s.freeCount)
      (List.ne_nil_of_mem ((mem r).mpr ⟨hm, hF⟩))
    exact ⟨q, ((mem q).mp hq).1, ((mem q).mp hq).2, by simp [agreeEvents, hr, ht]⟩

/-! ### One row of the candidate table (R106 to R109) -/

@[simp] theorem changeRow_rows (i : StationNo) (row : Vector Candidate 8) (t : CandidateTable) :
    (changeRow i row t).rows = t.rows.set i row := rfl

theorem candidateAt_set (i : StationNo) (row : Vector Candidate 8) (rows : Vector (Vector Candidate 8) 16)
    (u : UplinkId) :
    candidateAt (rows.set i row) u = if stationOf u = i then row[portOf u] else candidateAt rows u := by
  unfold candidateAt
  by_cases h : stationOf u = i
  · subst h; simp
  · rw [if_neg h]
    have hv : (i : Nat) ≠ (stationOf u : Nat) := fun he => h (Fin.ext he.symm)
    simp [Fin.getElem_fin, Vector.getElem_set_ne, hv]

/-- A row whose contributions are as before leaves every contribution of the table as before. -/
theorem contributions_set {i : StationNo} {row : Vector Candidate 8} {rows : Vector (Vector Candidate 8) 16}
    (h : rowContributes rows[i] row = false) : contributions (rows.set i row) = contributions rows := by
  unfold contributions
  refine List.map_congr_left fun u _ => ?_
  rw [candidateAt_set]
  by_cases hu : stationOf u = i
  · rw [if_pos hu]
    unfold rowContributes at h
    rw [List.any_eq_false] at h
    have := h (portOf u) (List.mem_finRange _)
    simp only [bne_iff_ne, ne_eq, Decidable.not_not] at this
    rw [← this]; unfold candidateAt; subst hu; rfl
  · rw [if_neg hu]

/-- An event at the candidate table keeps the digest that of the table (R108). -/
theorem changeRow_digest (i : StationNo) (row : Vector Candidate 8) {t : CandidateTable}
    (h : t.digest = viewDigest t.rows) : (changeRow i row t).digest = viewDigest (changeRow i row t).rows := by
  unfold changeRow
  by_cases hc : rowContributes t.rows[i] row = true
  · simp only [hc, if_true]
  · have hc' : rowContributes t.rows[i] row = false := by simpa using hc
    simp only [hc', Bool.false_eq_true, if_false]
    rw [h]; unfold viewDigest; rw [contributions_set hc']

/-- A dirty flag is set after an event exactly when it was set, or some entry of the row calls for it (R109). -/
theorem changeRow_dirty (i : StationNo) (row : Vector Candidate 8) (t : CandidateTable) (g : Group) :
    (changeRow i row t).dirty[g] =
      (t.dirty[g] || (List.finRange 8).any fun p => callsForDirty g t.rows[i][p] row[p]) := by
  simp [changeRow]

/-- The contribution of an entry names a group exactly when the entry is a candidate of it. -/
theorem namesGroup_contribution (g : Group) (c : Candidate) :
    NamesGroup g (contribution c) ↔ isCandidateOf g c = true := by
  unfold NamesGroup contribution isCandidateOf
  by_cases h : isCandidate c = true
  · have hw : c.weight ≠ 0 := by
      unfold isCandidate at h
      split at h
      · simp only [Bool.and_eq_true, bne_iff_ne] at h; exact h.2
      · cases h
    have hl := c.weight.isLt
    have hp : 0 < c.weight.toNat := Nat.pos_of_ne_zero fun he => hw (BitVec.eq_of_toNat_eq he)
    have hg := c.group.isLt
    rw [if_pos h]
    have hz : (0 : Byte).toNat = 0 := rfl
    simp only [h, Bool.true_and, beq_iff_eq, ne_eq, ← BitVec.toNat_inj, BitVec.toNat_ofNat, Fin.ext_iff, hz]
    constructor
    · rintro ⟨-, he⟩; omega
    · intro he; constructor <;> omega
  · rw [if_neg h]
    simp [h]

/-- The flags that a change of one row leaves are those of R109. -/
theorem changeRow_flagged (i : StationNo) (row : Vector Candidate 8) {s t : State}
    (h : t.table.rows = s.table.rows.set i row) (g : Group) :
    (changeRow i row s.table).dirty[g] = true ↔ Flagged s t g := by
  have hc : ∀ old new : Candidate, callsForDirty g old new = true ↔
      contribution new ≠ contribution old ∧ (NamesGroup g (contribution old) ∨ NamesGroup g (contribution new)) := by
    intro old new
    simp only [callsForDirty, Bool.and_eq_true, bne_iff_ne, Bool.or_eq_true, namesGroup_contribution]
    exact and_congr_left' ne_comm
  rw [changeRow_dirty, Bool.or_eq_true, List.any_eq_true, Flagged]
  refine or_congr_right ⟨?_, ?_⟩
  · rintro ⟨p, -, hp⟩
    obtain ⟨u, rfl, rfl⟩ : ∃ u : UplinkId, stationOf u = i ∧ portOf u = p :=
      ⟨⟨8 * i.val + p.val, by omega⟩, Fin.ext (by simp only [stationOf]; omega), Fin.ext (by simp only [portOf]; omega)⟩
    refine ⟨u, ?_⟩
    rw [h, candidateAt_set, if_pos rfl]
    exact (hc _ _).mp hp
  · rintro ⟨u, hu⟩
    rw [h, candidateAt_set] at hu
    by_cases hs : stationOf u = i
    · rw [if_pos hs] at hu
      refine ⟨portOf u, List.mem_finRange _, (hc _ _).mpr ?_⟩
      subst hs; exact hu
    · rw [if_neg hs] at hu; exact absurd rfl hu.1

/-! ### The clock recovery (R55, R56) -/

/-- Cells change nothing of the bus but the expected boundary and the missed-cell count. -/
theorem timeCells_frame (times : List (Option Int)) (b : Bus) :
    timeCells times b =
      { b with boundary := (timeCells times b).boundary, missed := (timeCells times b).missed } := by
  have h : ∀ b : Bus, times.foldl timeCell b =
      { b with boundary := (times.foldl timeCell b).boundary, missed := (times.foldl timeCell b).missed } := by
    induction times with
    | nil => intro b; rfl
    | cons o times ih => intro b; rw [List.foldl_cons, ih]; rfl
  unfold timeCells
  split
  · exact h b
  · rfl

theorem cellAdvance_eq (o : Option Int) : cellAdvance o = Config.cellPicoseconds + timingCorrection o := by
  cases o <;> rfl

/-- What cells do to the clock recovery. -/
theorem timeCells_timed (times : List (Option Int)) (b : Bus) : Timed times b (timeCells times b) := by
  refine ⟨fun h => ?_, fun h => ?_⟩
  · unfold timeCells
    rw [if_pos h]
    clear h
    induction times generalizing b with
    | nil => simp
    | cons o times ih =>
      obtain ⟨hb, hm⟩ := ih (timeCell b o)
      rw [List.foldl_cons]
      refine ⟨?_, ?_⟩
      · rw [hb, List.map_cons, List.sum_cons, cellAdvance_eq]; simp only [timeCell]; ring
      · rw [hm]
        cases times with
        | nil => cases o <;> simp [timeCell]
        | cons p times => rw [List.getLast?_cons_cons]; cases h : (p :: times).getLast? <;> simp_all
  · unfold timeCells
    rw [if_neg (by rw [h]; decide)]
    exact ⟨rfl, rfl⟩

/-- A frame that ends at the receiver (R55, R58). -/
theorem spendReceiver_ends (times : List (Option Int)) (s : State) : FrameEnds times s (spendReceiver times s) := by
  refine ⟨?_, ?_⟩
  · exact timeCells_timed times s.bus
  · have := timeCells_frame times s.bus
    simp only [spendReceiver]
    rw [this]
    rfl

/-- The cells of an attempt that agreed pass the clock recovery (R55, R60). -/
theorem hearEcho_timed (f : InFlight) (offsets : List (Option Int)) (b : Bus) :
    Timed offsets b (hearEcho f offsets b) := by
  by_cases h : b.recovery = .track
  · unfold hearEcho
    rw [if_pos h]
    exact timeCells_timed offsets b
  · unfold hearEcho
    rw [if_neg h]
    exact ⟨fun ht => absurd ht h, fun _ => ⟨rfl, rfl⟩⟩

/-- The cells of an attempt that agreed change nothing of the bus but the clock recovery and the receiver. -/
theorem hearEcho_frame (f : InFlight) (offsets : List (Option Int)) (b : Bus) :
    hearEcho f offsets b =
      { b with
        boundary := (hearEcho f offsets b).boundary, missed := (hearEcho f offsets b).missed
        receiver := (hearEcho f offsets b).receiver } := by
  by_cases h : b.recovery = .track
  · unfold hearEcho
    rw [if_pos h]
    have := timeCells_frame offsets b
    rw [this]
  · unfold hearEcho
    rw [if_neg h]

/-- The clock recovery takes one cell and then the rest. -/
theorem timeCells_cons {b : Bus} (h : b.recovery = .track) (o : Option Int) (times : List (Option Int)) :
    timeCells (o :: times) b = timeCells times (timeCell b o) := by
  unfold timeCells
  rw [if_pos h, if_pos (show (timeCell b o).recovery = .track from h), List.foldl_cons]

/-- The clock recovery does not look at the receiver. -/
theorem timeCells_receiver (times : List (Option Int)) (b : Bus) (r : Receiver) :
    timeCells times { b with receiver := r } = { timeCells times b with receiver := r } := by
  unfold timeCells
  split
  · clear * -
    induction times generalizing b with
    | nil => rfl
    | cons o times ih => exact ih (timeCell b o)
  · rfl

/-! ### Cells that LINE_IDLE tells (R55, R60, R64) -/

/-- Cells are heard one after another. -/
theorem hearCells_append (place : Nat) (before after : List LineCell) (s : State) :
    hearCells place (before ++ after) s = hearCells (place + before.length) after (hearCells place before s) := by
  induction before generalizing place s with
  | nil => rfl
  | cons c before ih =>
    rw [List.cons_append, hearCells, ih, hearCells, List.length_cons]
    congr 1
    omega

/-- In SEEK no cell is decoded (R54). -/
theorem hearCells_seek {s : State} (h : s.bus.recovery = .seek) (place : Nat) (cells : List LineCell) :
    hearCells place cells s = s := by
  induction cells generalizing place with
  | nil => rfl
  | cons c cells ih =>
    have hc : hearCell place c s = s := by unfold hearCell; rw [if_neg (by rw [h]; decide)]
    rw [hearCells, hc, ih]

/-- With no attempt on, a cell is heard whatever its place. -/
theorem hearCell_place {s : State} (h : s.bus.inFlight = none) (place : Nat) (c : LineCell) :
    hearCell place c s = hearCell 0 c s := by
  unfold hearCell
  rw [h]

/-- Cells of an attempt, short of its last, that were heard as they were sent: they pass the clock recovery and the
receiver, and the attempt goes on (R55, R60, R64). -/
theorem hearCells_agreed {f : InFlight} (cells : List LineCell) : ∀ {place : Nat} {s : State},
    s.bus.inFlight = some f → s.bus.recovery = .track → place + cells.length < (sentCells f).length →
    cells.map cellValue = (((sentCells f).drop place).take cells.length).map some →
    hearCells place cells s = { s with
      bus := { timeCells (cells.map LineCell.boundary) s.bus with
        receiver := receiveSilently s.bus.receiver (cells.map cellValue) } } := by
  induction cells with
  | nil =>
    intro place s _ ht _ _
    simp only [hearCells, List.map_nil, receiveSilently, List.foldl_nil, timeCells, if_pos ht]
  | cons c cells ih =>
    intro place s hf ht hl hv
    have hp : place < (sentCells f).length := by rw [List.length_cons] at hl; omega
    rw [List.drop_eq_getElem_cons hp, List.length_cons, List.take_succ_cons, List.map_cons, List.map_cons,
      List.cons.injEq] at hv
    have hc : hearCell place c s = { s with bus := trackCell s.bus c } := by
      have hlast : ¬ place + 1 = (sentCells f).length := by rw [List.length_cons] at hl; omega
      have hagree : isCollision s.bus.recovery (sentCells f)[place] c = false := by
        rw [isCollision, hv.1, ht]
        simp
      simp only [hearCell, if_pos ht, hf, echoCell, List.getElem?_eq_getElem hp, hagree, if_neg hlast,
        Bool.false_eq_true, if_false]
    rw [hearCells, hc, ih (s := { s with bus := trackCell s.bus c }) hf ht (by rw [List.length_cons] at hl; omega) hv.2]
    simp only [List.map_cons, timeCells_cons ht, trackCell, timeCells_receiver, receiveSilently, List.foldl_cons]

/-! ### The queue's head (R70) -/

/-- The head stands at the place that the model takes. -/
theorem headPlace_of_isHead {queue : List QueueEntry} {place : Nat} {e : QueueEntry} (h : IsHead queue place e) :
    headPlace queue = place := by
  obtain ⟨he, ⟨hk, hu, hf⟩ | ⟨rfl, hn⟩⟩ := h
  · have : queue.findIdx? (fun e => e.kind == .report && e.urgent) = some place := by
      rw [List.findIdx?_eq_some_iff_getElem]
      obtain ⟨hlt, rfl⟩ := List.getElem?_eq_some_iff.mp he
      refine ⟨hlt, by simp [hk, hu], fun j hj => ?_⟩
      have := hf j hj queue[j] (List.getElem?_eq_getElem (by omega))
      simpa using this
    simp [headPlace, this]
  · have : queue.findIdx? (fun e => e.kind == .report && e.urgent) = none := by
      rw [List.findIdx?_eq_none_iff]
      intro e he
      by_cases hk : e.kind = .report
      · simp [hn e he hk]
      · simp [hk]
    simp [headPlace, this]

/-! ### The loader on the I2C bus (R3) -/

/-- A cell moves the loader on the bus and touches neither its attempts nor its timers. -/
theorem tickBus_frame (held : Bool) (l : Loader) :
    (tickBus held l).attempts = l.attempts ∧ (tickBus held l).retry = l.retry ∧
    (tickBus held l).deadline = l.deadline := by
  unfold tickBus nextQuarter takeUpBus
  split
  · exact ⟨rfl, rfl, rfl⟩
  · split
    · exact ⟨rfl, rfl, rfl⟩
    · split
      · exact ⟨rfl, rfl, rfl⟩
      · split <;> exact ⟨rfl, rfl, rfl⟩

end Sys2Proof.Machine
end

