-- ==== Sys2Proof/Laws/PerInstr.lean ====
section
/-! SUPPORT. One fact about every command as it is written down: the bytes of an inspection command are a command byte
and the arguments that the byte is followed by (R164, R179). -/

namespace Sys2Proof.Laws.Inspection

open Sys2Proof Sys2Proof.Machine

/-- The bytes of the command, if it has any, are a command byte and as many argument bytes as that byte names, or the
byte alone where it names no command. -/
def Statement (i : Instr) : Prop :=
  ∀ bytes, inspectionBytes i = some bytes → i.wf = true →
    ∃ c args, bytes = c :: args ∧ (argumentLength c = some args.length ∨ (argumentLength c = none ∧ args = []))

/-- A command that comes in no inspection transaction has no bytes. -/
theorem Statement.ofNone {i : Instr} (h : inspectionBytes i = none) : Statement i := by
  intro bytes hb
  rw [h] at hb
  cases hb

/-- A command whose bytes are a known command byte and its arguments. -/
theorem Statement.ofBytes {i : Instr} {c : Byte} {args : List Byte} (h : inspectionBytes i = some (c :: args))
    (hc : argumentLength c = some args.length) : Statement i := by
  intro bytes hb _
  rw [h] at hb
  cases hb
  exact ⟨c, args, rfl, .inl hc⟩

theorem powerOn (straps : BitVec 4) : Statement (.powerOn straps) := .ofNone rfl

theorem addressNotAcknowledged (stage : AddressStage) : Statement (.addressNotAcknowledged stage) := .ofNone rfl

theorem readRetryDelayExpiry : Statement .readRetryDelayExpiry := .ofNone rfl

theorem loadingTimeout : Statement .loadingTimeout := .ofNone rfl

theorem recordReceived (record : Vector Byte 28) : Statement (.recordReceived record) := .ofNone rfl

theorem joinSettleTimerExpiry : Statement .joinSettleTimerExpiry := .ofNone rfl

theorem attentionAssertion : Statement .attentionAssertion := .ofNone rfl

theorem spiTransactionOpen : Statement .spiTransactionOpen := .ofNone rfl

theorem spiTransactionEnd : Statement .spiTransactionEnd := .ofNone rfl

theorem unknownCommand (byte : Byte) : Statement (.unknownCommand byte) := by
  intro bytes hb hw
  cases hb
  exact ⟨byte, [], rfl, .inr ⟨by simpa [Instr.wf] using hw, rfl⟩⟩

theorem status : Statement .status := .ofBytes rfl rfl

theorem readUplink (port : Byte) : Statement (.readUplink port) := .ofBytes rfl rfl

theorem readPeer (station : Byte) : Statement (.readPeer station) := .ofBytes rfl rfl

theorem readCandidate (uplink : Byte) : Statement (.readCandidate uplink) := .ofBytes rfl rfl

theorem readEntry (group : Byte) (bucket : Half) (bank : Byte) :
    Statement (.readEntry group bucket bank) := .ofBytes rfl rfl

theorem readCounters : Statement .readCounters := .ofBytes rfl rfl

theorem readEvents : Statement .readEvents := .ofBytes rfl rfl

theorem clearEvents (mask : Half) : Statement (.clearEvents mask) := .ofBytes rfl rfl

theorem setMask (mask : Half) : Statement (.setMask mask) := .ofBytes rfl rfl

theorem drain (port : Byte) : Statement (.drain port) := .ofBytes rfl rfl

theorem undrain (port : Byte) : Statement (.undrain port) := .ofBytes rfl rfl

theorem quiet : Statement .quiet := .ofBytes rfl rfl

theorem wake : Statement .wake := .ofBytes rfl rfl

theorem restart : Statement .restart := .ofBytes rfl rfl

theorem cadenceTransition (port : PortNo) : Statement (.cadenceTransition port) := .ofNone rfl

theorem cadenceWindowExpiry : Statement .cadenceWindowExpiry := .ofNone rfl

theorem losAssertion (port : PortNo) : Statement (.losAssertion port) := .ofNone rfl

theorem losRelease (port : PortNo) : Statement (.losRelease port) := .ofNone rfl

theorem restoreTimerExpiry (port : PortNo) : Statement (.restoreTimerExpiry port) := .ofNone rfl

theorem rampTimerExpiry (port : PortNo) : Statement (.rampTimerExpiry port) := .ofNone rfl

theorem errorPulse (port : PortNo) (kind : ErrorKind) : Statement (.errorPulse port kind) := .ofNone rfl

theorem errorWindowExpiry : Statement .errorWindowExpiry := .ofNone rfl

theorem lineBusy : Statement .lineBusy := .ofNone rfl

theorem lineIdle (cells : List LineCell) : Statement (.lineIdle cells) := .ofNone rfl

theorem attemptStart (idleCells : Nat) : Statement (.attemptStart idleCells) := .ofNone rfl

theorem collision (agreed : List Int) (heard : LineCell) : Statement (.collision agreed heard) := .ofNone rfl

theorem attemptComplete : Statement .attemptComplete := .ofNone rfl

theorem badFrameReceived (frame : Heard BadFrame) : Statement (.badFrameReceived frame) := .ofNone rfl

theorem joinReceived (sender : StationNo) (sequence : Byte) (body : Vector Byte 17) (crc : Heard Half) :
    Statement (.joinReceived sender sequence body crc) := .ofNone rfl

theorem stateReceived (sender : StationNo) (sequence : Byte) (body : Vector Byte 13) (crc : Heard Half) :
    Statement (.stateReceived sender sequence body crc) := .ofNone rfl

theorem alertReceived (sender : StationNo) (sequence : Byte) (body : Vector Byte 13) (crc : Heard Half) :
    Statement (.alertReceived sender sequence body crc) := .ofNone rfl

theorem solicitReceived (sender : StationNo) (sequence : Byte) (body : Vector Byte 2) (crc : Heard Half) :
    Statement (.solicitReceived sender sequence body crc) := .ofNone rfl

theorem leaveReceived (sender : StationNo) (sequence : Byte) (crc : Heard Half) :
    Statement (.leaveReceived sender sequence crc) := .ofNone rfl

theorem announceTimerExpiry : Statement .announceTimerExpiry := .ofNone rfl

theorem solicitHoldoffExpiry : Statement .solicitHoldoffExpiry := .ofNone rfl

theorem silenceTimerExpiry (station : StationNo) : Statement (.silenceTimerExpiry station) := .ofNone rfl

theorem presenceLineFall (station : StationNo) : Statement (.presenceLineFall station) := .ofNone rfl

theorem presenceLineRise (station : StationNo) : Statement (.presenceLineRise station) := .ofNone rfl

theorem bucketDone (stuck : MapWord) : Statement (.bucketDone stuck) := .ofNone rfl

theorem lookupRequest (group : Group) (bucket : Bucket) (tag : Tag) (upset : MapWord) :
    Statement (.lookupRequest group bucket tag upset) := .ofNone rfl

theorem replyFormation (upset : MapWord) : Statement (.replyFormation upset) := .ofNone rfl

theorem attentionRelease : Statement .attentionRelease := .ofNone rfl

end Sys2Proof.Laws.Inspection
end

