-- ==== Sys2Proof/Laws/Score.lean ====
section
/-! SUPPORT. What the score unit holds after the candidates of a snapshot: the two that rank highest. -/

namespace Sys2Proof.Machine

/-- `unit` holds of `taken` the candidate that ranks first as its leader, and the one that ranks first among the others
as its runner-up. -/
def UnitHolds (seed : Half) (g : Group) (b : Bucket) (taken : List SnapshotPair) (unit : ScoreUnit) : Prop :=
  (taken = [] ∧ unit.leader = none ∧ unit.runnerUp = none) ∨
  (∃ x, taken = [x] ∧ unit.leader = some (scoredPair seed g b x) ∧ unit.runnerUp = none) ∨
  (∃ x y, RanksFirst seed g b taken x ∧ y ∈ taken ∧ y ≠ x ∧
    (∀ z ∈ taken, z ≠ x → z ≠ y → RanksAbove seed g b y z) ∧
    unit.leader = some (scoredPair seed g b x) ∧ unit.runnerUp = some (scoredPair seed g b y))

/-- Ranking above is transitive. -/
theorem RanksAbove.chain {seed : Half} {g : Group} {b : Bucket} {x y z : SnapshotPair}
    (h : RanksAbove seed g b x y) (h' : RanksAbove seed g b y z) : RanksAbove seed g b x z := by
  unfold RanksAbove at *
  rcases h with h | ⟨h, l⟩ <;> rcases h' with h' | ⟨h', l'⟩
  · exact .inl (by omega)
  · exact .inl (by omega)
  · exact .inl (by omega)
  · exact .inr ⟨by omega, lt_trans l l'⟩

/-- A candidate taken later, with a higher id, that does not score above x ranks below it. -/
theorem ranksAbove_of_not_lt {seed : Half} {g : Group} {b : Bucket} {x y : SnapshotPair}
    (h : ¬ weightedScore seed g b x < weightedScore seed g b y) (l : x.uplink < y.uplink) :
    RanksAbove seed g b x y := by
  unfold RanksAbove
  rcases Nat.lt_or_ge (weightedScore seed g b y) (weightedScore seed g b x) with h' | h'
  · exact .inl h'
  · exact .inr ⟨by omega, l⟩

/-- Placing one more candidate, of a higher id than all before it, keeps what the unit holds. -/
theorem placeScored_holds {seed : Half} {g : Group} {b : Bucket} {taken : List SnapshotPair} {unit : ScoreUnit}
    (h : UnitHolds seed g b taken unit) (p : SnapshotPair) (above : ∀ q ∈ taken, q.uplink < p.uplink) :
    UnitHolds seed g b (taken ++ [p]) (placeScored unit (scoredPair seed g b p)) := by
  rcases h with ⟨rfl, hl, hr⟩ | ⟨x, rfl, hl, hr⟩ | ⟨x, y, ⟨hx, hxf⟩, hy, hyx, hyf, hl, hr⟩
  · refine .inr (.inl ⟨p, rfl, ?_, ?_⟩) <;> simp [placeScored, hl, hr]
  · have hlt : x.uplink < p.uplink := above x (by simp)
    have hne : p ≠ x := by rintro rfl; exact lt_irrefl _ hlt
    by_cases hs : weightedScore seed g b x < weightedScore seed g b p
    · refine .inr (.inr ⟨p, x, ⟨by simp, ?_⟩, by simp, hne.symm, ?_, ?_, ?_⟩)
      · intro z hz hzp
        simp at hz
        rcases hz with rfl | rfl
        · exact .inl hs
        · exact absurd rfl hzp
      · intro z hz h1 h2; simp at hz; rcases hz with rfl | rfl <;> contradiction
      · simp [placeScored, hl, scoredPair, hs]
      · simp [placeScored, hl, scoredPair, hs]
    · refine .inr (.inr ⟨x, p, ⟨by simp, ?_⟩, by simp, hne, ?_, ?_, ?_⟩)
      · intro z hz hzx
        simp at hz
        rcases hz with rfl | rfl
        · exact absurd rfl hzx
        · exact ranksAbove_of_not_lt hs hlt
      · intro z hz h1 h2; simp at hz; rcases hz with rfl | rfl <;> contradiction
      · simp [placeScored, hl, hr, scoredPair, hs]
      · simp [placeScored, hl, hr, scoredPair, hs]
  · have hltx : x.uplink < p.uplink := above x hx
    have hlty : y.uplink < p.uplink := above y hy
    have hpx : p ≠ x := by rintro rfl; exact lt_irrefl _ hltx
    have hpy : p ≠ y := by rintro rfl; exact lt_irrefl _ hlty
    have hxy : RanksAbove seed g b x y := hxf y hy hyx
    by_cases hs : weightedScore seed g b x < weightedScore seed g b p
    · refine .inr (.inr ⟨p, x, ⟨by simp, ?_⟩, by simp [hx], hpx.symm, ?_, ?_, ?_⟩)
      · intro z hz hzp
        simp at hz
        rcases hz with hz | rfl
        · by_cases hzx : z = x
          · subst hzx; exact .inl hs
          · exact RanksAbove.chain (.inl hs) (hxf z hz hzx)
        · exact absurd rfl hzp
      · intro z hz h1 h2
        simp at hz
        rcases hz with hz | rfl
        · exact hxf z hz h2
        · exact absurd rfl h1
      · simp [placeScored, hl, scoredPair, hs]
      · simp [placeScored, hl, scoredPair, hs]
    · have hxp : RanksAbove seed g b x p := ranksAbove_of_not_lt hs hltx
      by_cases hr' : weightedScore seed g b y < weightedScore seed g b p
      · refine .inr (.inr ⟨x, p, ⟨by simp [hx], ?_⟩, by simp, hpx, ?_, ?_, ?_⟩)
        · intro z hz hzx
          simp at hz
          rcases hz with hz | rfl
          · exact hxf z hz hzx
          · exact hxp
        · intro z hz h1 h2
          simp at hz
          rcases hz with hz | rfl
          · by_cases hzy : z = y
            · subst hzy; exact .inl hr'
            · exact RanksAbove.chain (.inl hr') (hyf z hz h1 hzy)
          · exact absurd rfl h2
        · simp [placeScored, hl, hr, scoredPair, hs, hr']
        · simp [placeScored, hl, hr, scoredPair, hs, hr']
      · refine .inr (.inr ⟨x, y, ⟨by simp [hx], ?_⟩, by simp [hy], hyx, ?_, ?_, ?_⟩)
        · intro z hz hzx
          simp at hz
          rcases hz with hz | rfl
          · exact hxf z hz hzx
          · exact hxp
        · intro z hz h1 h2
          simp at hz
          rcases hz with hz | rfl
          · exact hyf z hz h1 h2
          · exact ranksAbove_of_not_lt hr' hlty
        · simp [placeScored, hl, hr, scoredPair, hs, hr']
        · simp [placeScored, hl, hr, scoredPair, hs, hr']

/-- The unit after a whole run of candidates in rising id order. -/
theorem placeScored_foldl {seed : Half} {g : Group} {b : Bucket} (rest : List SnapshotPair) :
    ∀ (taken : List SnapshotPair) (unit : ScoreUnit), UnitHolds seed g b taken unit →
      ((taken ++ rest).map SnapshotPair.uplink).Pairwise (· < ·) →
      UnitHolds seed g b (taken ++ rest)
        (rest.foldl (fun unit pair => placeScored unit (scoredPair seed g b pair)) unit) := by
  induction rest with
  | nil => intro taken unit h _; simpa using h
  | cons p rest ih =>
    intro taken unit h ordered
    have step := placeScored_holds h p (by
      intro q hq
      rw [List.map_append, List.pairwise_append] at ordered
      exact ordered.2.2 _ (List.mem_map_of_mem hq) _ (by simp))
    have := ih (taken ++ [p]) _ step (by simpa using ordered)
    simpa using this

/-- What the score unit holds at the end of a snapshot in rising id order (R115, R121). -/
theorem scoreRest_holds {seed : Half} {g : Group} {b : Bucket} {snapshot : List SnapshotPair}
    (ordered : (snapshot.map SnapshotPair.uplink).Pairwise (· < ·)) :
    UnitHolds seed g b snapshot (scoreRest seed g b snapshot ScoreUnit.reset) := by
  simpa [scoreRest, ScoreUnit.reset] using
    placeScored_foldl (seed := seed) (g := g) (b := b) snapshot [] ScoreUnit.reset
      (.inl ⟨rfl, rfl, rfl⟩) (by simpa using ordered)

/-- The candidate that ranks first is the primary. -/
theorem bucketPrimary_of_first {seed : Half} {g : Group} {b : Bucket} {snapshot : List SnapshotPair} {x : SnapshotPair}
    (ordered : (snapshot.map SnapshotPair.uplink).Pairwise (· < ·)) (h : RanksFirst seed g b snapshot x) :
    bucketPrimary seed g b snapshot = some x.uplink := by
  have asym : ∀ {u v : SnapshotPair}, RanksAbove seed g b u v → RanksAbove seed g b v u → False := by
    intro u v h h'
    unfold RanksAbove at h h'
    rcases h with h | ⟨h, l⟩ <;> rcases h' with h' | ⟨h', l'⟩
    · omega
    · omega
    · omega
    · exact lt_asymm l l'
  rcases scoreRest_holds (seed := seed) (g := g) (b := b) ordered with ⟨rfl, -, -⟩ | ⟨y, rfl, hl, -⟩ | ⟨y, z, hy, -, -, -, hl, -⟩
  · exact absurd h.1 (by simp)
  · have : x = y := by simpa using h.1
    subst this
    simp [bucketPrimary, unitPrimary, hl, scoredPair]
  · by_cases hxy : x = y
    · subst hxy; simp [bucketPrimary, unitPrimary, hl, scoredPair]
    · exact absurd (hy.2 x h.1 hxy) (fun h' => asym h' (h.2 y hy.1 (Ne.symm hxy)))

end Sys2Proof.Machine
end

