-- ==== Sys2Proof/Laws/Spi.lean ====
section
/-! SUPPORT. What the edges of SCK do at the inspection port (R164): whole bytes clocked in, and bytes read on MISO. -/

namespace Sys2Proof.Machine

theorem byteOfBits_byteCells (b : Byte) : byteOfBits (byteCells b) = b := by revert b; decide

/-- A fall of SCK shifts nothing in. -/
@[simp] theorem shiftEdge_fall (p : SpiShift) : shiftEdge p .fall = { p with falls := p.falls + 1 } := rfl

/-- A rise of SCK does not change MISO. -/
@[simp] theorem misoLevel_rise (taken : Nat) (t : Transaction) (p : SpiShift) (mosi : Bool) :
    misoLevel taken t (shiftEdge p (.rise mosi)) = misoLevel taken t p := by
  unfold shiftEdge misoLevel
  dsimp only
  split <;> rfl

theorem shiftEdges_append (p : SpiShift) (before after : List SckEdge) :
    shiftEdges p (before ++ after) = shiftEdges (shiftEdges p before) after := List.foldl_append

/-- A byte clocked in, from the start of a byte, joins the bytes that are complete. -/
theorem shiftEdges_byte {p : SpiShift} (h : p.bits = []) (b : Byte) :
    shiftEdges p (byteEdges b) = { p with bytes := p.bytes ++ [b], falls := p.falls + 8 } := by
  obtain ⟨bits, bytes, falls⟩ := p
  subst h
  have whole := byteOfBits_byteCells b
  simp [byteCells, List.range, List.range.loop] at whole
  simp [shiftEdges, byteEdges, byteCells, List.range, List.range.loop, shiftEdge, whole]

/-- Whole bytes clocked in, from the start of a byte. -/
theorem shiftEdges_bytes {p : SpiShift} (h : p.bits = []) (bytes : List Byte) :
    shiftEdges p (bytes.flatMap byteEdges) =
      { p with bytes := p.bytes ++ bytes, falls := p.falls + 8 * bytes.length } := by
  induction bytes generalizing p with
  | nil => simp [shiftEdges]
  | cons b bytes ih =>
    rw [List.flatMap_cons, shiftEdges_append, shiftEdges_byte h, ih (p := { p with bytes := p.bytes ++ [b], falls := p.falls + 8 }) h]
    simp only [List.append_assoc, List.singleton_append, List.length_cons]
    congr 1
    omega

/-- Edges never take a complete byte back. -/
theorem shiftEdges_keeps (p : SpiShift) (edges : List SckEdge) :
    ∃ more, (shiftEdges p edges).bytes = p.bytes ++ more := by
  induction edges generalizing p with
  | nil => exact ⟨[], (List.append_nil _).symm⟩
  | cons e edges ih =>
    obtain ⟨more, h⟩ := ih (shiftEdge p e)
    have step : ∃ own, (shiftEdge p e).bytes = p.bytes ++ own := by
      cases e with
      | rise mosi =>
        unfold shiftEdge
        dsimp only
        split
        · exact ⟨[], (List.append_nil _).symm⟩
        · exact ⟨_, rfl⟩
      | fall => exact ⟨[], (List.append_nil _).symm⟩
    obtain ⟨own, ho⟩ := step
    exact ⟨own ++ more, by rw [show shiftEdges p (e :: edges) = shiftEdges (shiftEdge p e) edges from rfl, h, ho,
      List.append_assoc]⟩

/-- The host reads on MISO, beside a byte that it clocks in from the start of a byte, the byte of that place. -/
theorem misoRead_byte (taken : Nat) (t : Transaction) {p : SpiShift} {place : Nat} (h : p.bits = [])
    (hf : p.falls = 8 * place) (b : Byte) :
    misoRead taken t p (byteEdges b) = byteCells (transactionByte taken t place) := by
  obtain ⟨bits, bytes, falls⟩ := p
  subst h hf
  have level : ∀ k, k < 8 → ∀ bits bytes, misoLevel taken t ⟨bits, bytes, 8 * place + k⟩ =
      (transactionByte taken t place).getLsbD (7 - k) := by
    intro k hk bits bytes
    have hd : (8 * place + k) / 8 = place := by omega
    have hm : (8 * place + k) % 8 = k := by omega
    simp only [misoLevel, hd, hm]
  simp [byteEdges, byteCells, List.range, List.range.loop, misoRead, shiftEdge, level 1, level 2, level 3, level 4,
    level 5, level 6, level 7]
  exact level 0 (by decide) _ _

end Sys2Proof.Machine
end

