-- ==== Sys2Proof/Tests/Slice0.lean ====
section
/-! SUPPORT. Tests: terms that the well-formedness check refuses, the manual's own worked values, and for every
statement with hypotheses a state and operands that meet them, clause by clause. -/

namespace Sys2Proof.Tests

set_option maxRecDepth 100000

open Sys2Proof Sys2Proof.Machine

/-! ### Ill-formed commands are refused -/

theorem test_wf_unknownCommand : (Instr.unknownCommand 0x10).wf = false ∧ (Instr.unknownCommand 0x00).wf = true := by
  decide

theorem test_wf_boundaryPart : (Instr.lineIdle [{ boundary := some 25001, middle := false }]).wf = false ∧
    (Instr.lineIdle [{ boundary := some (-25000), middle := false }]).wf = true := by decide

theorem test_wf_missedPair : (Instr.lineIdle
    [{ boundary := none, middle := false }, { boundary := none, middle := true }]).wf = false := by decide

theorem test_wf_collisionPlace :
    (Instr.collision (List.replicate 192 0) { boundary := none, middle := false }).wf = false ∧
    (Instr.collision (List.replicate 191 0) { boundary := none, middle := false }).wf = true := by decide

theorem test_wf_collisionCell : (Instr.collision [] { boundary := some (-25001), middle := false }).wf = false ∧
    (Instr.collision [25001] { boundary := none, middle := false }).wf = false := by decide

theorem test_wf_badFrameCrc : (Instr.badFrameReceived ⟨.complete [0x53, 7] (crc16 [0x53, 7]), []⟩).wf = false ∧
    (Instr.badFrameReceived ⟨.complete [0x53, 7] (crc16 [0x53, 7] + 1), []⟩).wf = true := by decide

theorem test_wf_badFrameLength : (Instr.badFrameReceived ⟨.complete [0x53, 7, 0] 0, []⟩).wf = false := by decide

theorem test_wf_badFrameTimes : (Instr.badFrameReceived ⟨.codeViolation, [none, none]⟩).wf = false ∧
    (Instr.badFrameReceived ⟨.codeViolation, [some 25001]⟩).wf = false ∧
    (Instr.badFrameReceived ⟨.codeViolation, [none, some 3, none]⟩).wf = true := by decide

theorem test_wf_completeTimes : (Instr.leaveReceived 3 9 ⟨crc16 [0x53, 9], [some 3, none, some 0]⟩).wf = false ∧
    (Instr.leaveReceived 3 9 ⟨crc16 [0x53, 9], (none :: List.replicate 48 (some 0))⟩).wf = true := by decide

theorem test_wf_joinCrc :
    (Instr.joinReceived 3 0 (Vector.replicate 17 0) ⟨crc16 (0x13 :: 0 :: List.replicate 17 0) + 1, []⟩).wf = false := by
  decide

theorem test_wf_stateCrc :
    (Instr.stateReceived 3 0 (Vector.replicate 13 0) ⟨crc16 (0x23 :: 0 :: List.replicate 13 0) + 1, []⟩).wf = false := by
  decide

theorem test_wf_alertCrc :
    (Instr.alertReceived 3 0 (Vector.replicate 13 0) ⟨crc16 (0x33 :: 0 :: List.replicate 13 0) + 1, []⟩).wf = false := by
  decide

theorem test_wf_solicitCrc :
    (Instr.solicitReceived 3 0 (Vector.replicate 2 0) ⟨crc16 [0x43, 0, 0, 0] + 1, []⟩).wf = false := by decide

theorem test_wf_leaveCrc : (Instr.leaveReceived 3 9 ⟨crc16 [0x53, 9] + 1, []⟩).wf = false ∧
    (Instr.leaveReceived 3 9 ⟨crc16 [0x53, 9], []⟩).wf = true := by decide

/-! ### The manual's worked values -/

/-- R177: the CRC check value over the text "123456789". -/
theorem test_crcCheckValue : crc16 [0x31, 0x32, 0x33, 0x34, 0x35, 0x36, 0x37, 0x38, 0x39] = 0x29B1 := by decide

/-- R8: the four checksums of its table. -/
theorem test_parameterChecksums : parameterChecksum 2 1000 50 = 31 ∧ parameterChecksum 3 65535 255 = 0 ∧
    parameterChecksum 0 0 1 = 1 ∧ parameterChecksum 1 1000 52 = 32 := by decide

/-- The default record of R178, with its checksum byte of 112. -/
def defaultRecord : Vector Byte 28 :=
  #v[0x55, 0x47, 1, 2, 0x03, 0xE8, 50, 3, 8, 10, 16, 0x25, 4, 20, 4, 5, 1, 0, 0,
    0x9A, 0x9A, 0x9A, 0x9A, 0, 0, 0, 0, 112]

theorem test_defaultRecord : recordFault defaultRecord = none ∧ recordClamped defaultRecord = false ∧
    (recordParams defaultRecord).checksum = 31 ∧ (recordParams defaultRecord).codeAction = .dark ∧
    (recordParams defaultRecord).slipAction = .degrade ∧
    (recordParams defaultRecord).frameAction = .degrade := by decide

/-- R180: EMPTY is stored as 0x00001, and reads back as an entry with neither choice. -/
theorem test_emptyWord : mapWord none none = 0x00001 ∧ readWord 0x00001 = some (none, none) ∧ readWord 0 = none := by
  decide

/-- R180: primary 11 and backup 3 as their bits stand: 1 0001011, 1 0000011, and a clear parity bit, as seven bits are
set. -/
theorem test_writtenWord : mapWord (some 11) (some 3) = 0b10001011100000110#17 ∧
    readWord 0b10001011100000110#17 = some (some 11, some 3) ∧ readWord 0b10001011100000111#17 = none := by decide

/-- R116: the keys of its table. -/
theorem test_keys : scoreKey 0 5 3 = 643 ∧ scoreKey 1 0 0 = 262144 ∧ scoreKey 2 1000 42 = 652330 ∧
    scoreKey 3 2047 127 = 1048575 := by decide

/-- Section 7.4: seed 1000, bucket 5 and three candidates. -/
theorem test_workedBucket :
    (rawScore 1000 643 = 13731 ∧ rawScore 1000 651 = 40091 ∧ rawScore 1000 657 = 59945) ∧
    bucketPrimary 1000 0 5 [⟨3, 10⟩, ⟨11, 10⟩, ⟨17, 1⟩] = some 11 ∧
    bucketBackup 1000 0 5 [⟨3, 10⟩, ⟨11, 10⟩, ⟨17, 1⟩] = some 3 ∧
    bucketPrimary 1000 0 5 [⟨3, 10⟩, ⟨17, 1⟩] = some 3 ∧ bucketBackup 1000 0 5 [⟨3, 10⟩, ⟨17, 1⟩] = some 17 := by
  decide

/-- Section 7.10: the limits. -/
theorem test_scoreLimits : rawScore 0 0 = 0 ∧ rawScore 0 1048575 = 57360 ∧ rawScore 65535 1048575 = 64248 ∧
    rawScore 14 1048575 = 64248 ∧ weightedScore 65535 3 2047 ⟨127, 15⟩ = 963720 ∧
    bucketPrimary 0 0 0 [⟨0, 7⟩] = some 0 := by decide

/-- Section 7.5: two rows of the table of weights at R = 4. -/
theorem test_rampWeights :
    effectiveWeight 4 { Port.reset with condition := .ramping, step := 1, weight := 6 } = 2 ∧
    effectiveWeight 4 { Port.reset with condition := .ramping, step := 3, weight := 6 } = 5 ∧
    effectiveWeight 4 { Port.reset with condition := .degraded, weight := 1 } = 1 ∧
    effectiveWeight 4 { Port.reset with condition := .degraded, weight := 15 } = 7 ∧
    effectiveWeight 4 { Port.reset with condition := .ramping, step := 3, weight := 15 } = 12 := by decide

/-- R141: three durations of its table. -/
theorem test_recomputeDurations : recomputeNanoseconds 0 0 = 7120 ∧ recomputeNanoseconds 2 12 = 63440 ∧
    recomputeNanoseconds 3 128 = 1312720 := by decide

/-- R52: 16 of preamble, 8 of delimiter and 8 a notice byte; the delimiter is 11010010. -/
theorem test_frameCells : (frameCells [0x53, 9, 0, 0]).length = 56 ∧
    byteCells delimiter = [true, true, false, true, false, false, true, false] := by decide

/-- The falls of SDA and its rises from one quarter to the next, while SCL is high in both. -/
def sdaEdges : List I2cDrive → List Bool
  | a :: b :: rest => (if a.scl && b.scl && a.sda != b.sda then [b.sda] else []) ++ sdaEdges (b :: rest)
  | _ => []

/-- R3: on the bus a read attempt is a start condition, a repeated one, and a stop condition, and in all its other
quarters SDA changes only while SCL is low. -/
theorem test_readAttemptOnBus :
    sdaEdges (⟨true, true⟩ :: readAttempt.flatMap elementDrives ++ [⟨true, true⟩]) = [false, false, true] := by decide

/-- R3: the device address 0x50 with the write direction, and the ninth clock in which SDA is left to the EEPROM. -/
theorem test_addressOnBus : ((elementDrives (.send 0xA0) ++ elementDrives .listen).filter fun d => d.scl).map
    I2cDrive.sda = [true, true, false, false, true, true] ++ List.replicate 10 false ++ [true, true] := by decide

/-- R55: three cells, of which the second comes early and the third is missed. -/
theorem test_timeCells :
    let b := timeCells [some 0, some (-7), none] { Bus.reset with recovery := .track, boundary := 100000 }
    b.boundary = 393750 ∧ b.missed = 1 := by decide

/-- R107: contributions of its table. -/
theorem test_contributions :
    contribution { source := .ownPort, condition := some .lit, group := 1, weight := 10 } = 26 ∧
    contribution { source := .peerReport, condition := some .ramping, group := 0, weight := 3 } = 3 ∧
    contribution { source := .peerReport, condition := some .degraded, group := 3, weight := 7 } = 55 ∧
    contribution { source := .peerReport, condition := none, group := 3, weight := 7 } = 0 := by decide

/-! ### Small states -/

/-- A station in a given state, number 2, with the default parameters and an open inspection transaction. -/
def station (state : StationState) : State :=
  { State.reset with
    control := { Control.reset 2 with station := state }
    params := recordParams defaultRecord
    peers := peersReset 2
    table := CandidateTable.reset 2
    spi := .opened }

/-- The same with one kind of notice in flight. -/
def sending (state : StationState) (e : QueueEntry) : State :=
  { station state with
    bus := { Bus.reset with
      driver := .driven [], inFlight := some { entry := e, older := 0, final := false, frame := [0x52, 9, 0, 0] } } }

/-- The same with the recovery in TRACK. -/
def echoing (state : StationState) (e : QueueEntry) : State :=
  { sending state e with bus := { (sending state e).bus with recovery := .track, line := .busy } }

/-- A cell of a value, in step with the expected boundary. -/
def cellOf (value : Bool) : LineCell := { boundary := some 0, middle := !value }

/-- A station whose port 0 is as given, with both windows running. -/
def withPort (p : Port) : State :=
  { station .operating with
    ports := Vector.replicate 8 p, cadenceTimer := .running 80, errorTimer := .running 100000 }

/-- An enabled port in a condition and a light state. -/
def portIn (c : Condition) (l : LightState) : Port :=
  { Port.reset with enabled := true, weight := 10, condition := c, light := l }

/-- A station whose entry of station 3 is as given. -/
def withPeer (p : Peer) : State := { station .operating with peers := (peersReset 2).set 3 p }

/-- A station that holds a request in service. -/
def serving (v : Service) : State :=
  { station .operating with
    lookup := { LookupPort.reset with fifo := [{ group := 1, bucket := 5, tag := 9 }], service := some v } }

/-- A LEAVE that stands in the queue. -/
def leaveEntry : QueueEntry := { kind := .leave, urgent := false, attempts := 0 }

/-- A report entry, marked or not. -/
def reportEntry (urgent : Bool) : QueueEntry := { kind := .report, urgent := urgent, attempts := 0 }

/-! ### Some steps -/

theorem test_powerOn : step { State.reset with pending := [.powerOn 0] } = .next State.reset := by rfl

/-- A property of the next state of a command. -/
def after (c : Instr) (s : State) (p : State → Bool) : Bool :=
  match exec c s with
  | .next t => p t
  | _ => false

theorem test_recordReceived : after (.recordReceived defaultRecord) State.reset (fun t =>
    t.control.station == .joining && t.control.settle == .running 1000000 && t.ports[0].condition == .dark &&
    t.ports[7].condition == .off && t.bus.queue == [{ kind := .join, urgent := false, attempts := 0 }]) = true := by
  decide

theorem test_joinStarts : after (.attemptStart 48)
    { station .joining with bus := { Bus.reset with queue := [{ kind := .join, urgent := false, attempts := 0 }] } }
    (fun t => t.bus.inFlight.isSome && t.bus.queue == [] && t.notices.sequence == 1) = true := by decide

theorem test_joinWaits : after (.attemptStart 47)
    { station .joining with bus := { Bus.reset with queue := [{ kind := .join, urgent := false, attempts := 0 }] } }
    (fun t => t.bus.inFlight.isNone && t.bus.idleCount == 47) = true := by decide

/-- An EMPTY service with no candidate is answered NONE. -/
theorem test_replyNone : after (.replyFormation 0) (serving (.entry none none))
    (fun t => t.lookup.reply.via == .none && !t.lookup.reply.named && t.lookup.reply.tag == 9 &&
      t.lookup.reply.strobes == 1) = true := by decide

theorem test_statusReply : after .status (station .operating)
    (fun t => match t.spi with
      | .taken 0x5A data => data.take 6 == [3, 2, 0, 0, 0xF0, 0x0A] && data.length == 30
      | _ => false) = true := by decide

/-! ### The hypotheses of the statements are met -/

theorem test_premises_stepRunsFrontCommand :
    ({ State.reset with pending := [.status, .quiet] } : State).pending = .status :: [.quiet] := rfl

theorem test_premises_emptyQueuePassesOneCell :
    State.reset.pending = [] ∧ State.reset.bus.line = .idle ∧
    (let s := { station .joining with bus := { Bus.reset with line := .busy } }
     s.pending = [] ∧ s.bus.line = .busy) := by decide

/-- A timer that is stopped, one that runs on, and one whose expiry is still to be told. -/
theorem test_passesCell : PassesCell .stopped (tickTimer .stopped) ∧ PassesCell (.running 5) (tickTimer (.running 5)) ∧
    tickTimer (.running 5) = .running 4 ∧ PassesCell (.running 0) (tickTimer (.running 0)) := ⟨rfl, rfl, rfl, rfl⟩

theorem test_premises_loaderOnBus :
    let e := { State.reset with loader := { Loader.reset with bus := [] } }
    let h := { State.reset with pins := { Pins.reset with sclHeld := true } }
    let q := { State.reset with loader := { Loader.reset with cells := 24 } }
    let l := { State.reset with loader := { Loader.reset with cells := 24, quarter := 3 } }
    (e.pending = [] ∧ e.loader.bus = []) ∧
    (h.pending = [] ∧ (loaderDrive h.loader).scl = true ∧ h.pins.sclHeld = true) ∧
    (State.reset.loader.bus = .start :: readAttempt.tail ∧ State.reset.pins.sclHeld = false ∧
      State.reset.loader.cells + 1 < 25) ∧
    (25 ≤ q.loader.cells + 1 ∧ q.loader.quarter + 1 < (elementDrives .start).length) ∧
    (25 ≤ l.loader.cells + 1 ∧ (elementDrives .start).length ≤ l.loader.quarter + 1 ∧
      (loaderDrive l.loader).scl = false) := by decide

theorem test_premises_loadingFailures :
    (State.reset.control.station = .loading ∧ isRunning State.reset.loader.deadline = true ∧
      State.reset.loader.retry = .stopped ∧ State.reset.loader.attempts < 4) ∧
    (let s := { State.reset with loader := { Loader.reset with attempts := 4 } }
     s.control.station = .loading ∧ isRunning s.loader.deadline = true ∧ s.loader.retry = .stopped ∧
     4 ≤ s.loader.attempts) ∧
    AddressStage.wordAddress ≠ .firstAddress ∧
    (let s := { State.reset with loader := { Loader.reset with retry := .running 1 } }
     s.control.station = .loading ∧ isRunning s.loader.retry = true) ∧
    (((defaultRecord.set 27 111).toList.map BitVec.toNat).sum % 256 ≠ 0) ∧
    (let r := (defaultRecord.set 1 0x48).set 27 111
     (r.toList.map BitVec.toNat).sum % 256 = 0 ∧ (r[0] ≠ 0x55 ∨ r[1] ≠ 0x47)) ∧
    (let r := (defaultRecord.set 2 2).set 27 111
     (r.toList.map BitVec.toNat).sum % 256 = 0 ∧ r[0] = 0x55 ∧ r[1] = 0x47 ∧ r[2] ≠ 1) ∧
    (let r := (defaultRecord.set 11 0x35).set 27 96
     (r.toList.map BitVec.toNat).sum % 256 = 0 ∧ r[0] = 0x55 ∧ r[1] = 0x47 ∧ r[2] = 1 ∧
     r[11].extractLsb' 4 2 = 3#2) := by decide

theorem test_premises_goodRecordEntersJoining :
    State.reset.bus.queue = [] ∧ State.reset.bus.inFlight = none ∧
    (defaultRecord.toList.map BitVec.toNat).sum % 256 = 0 ∧ defaultRecord[0] = 0x55 ∧ defaultRecord[1] = 0x47 ∧
    defaultRecord[2] = 1 ∧ defaultRecord[11].extractLsb' 4 2 ≠ 3#2 ∧ defaultRecord[11].extractLsb' 2 2 ≠ 3#2 ∧
    defaultRecord[11].extractLsb' 0 2 ≠ 3#2 := by decide

theorem test_premises_settleExpiryOpensService :
    let s := { station .joining with control := { Control.reset 2 with station := .joining, settle := .running 0 } }
    s.control.station = .joining ∧ isRunning s.control.settle = true := by decide

/-- An engine that may start and finds group 3 first after the pointer 1, as group 2 is faulted; and three that stay. -/
theorem test_premises_searchFollows :
    let s := { station .operating with
      table := { CandidateTable.reset 2 with dirty := #v[true, false, true, true] }
      engine := { Engine.reset with pointer := 1, fault := #v[false, false, true, false] } }
    (s.engine.run = .idle ∧ engineMayStart s.control.station = true ∧
      FirstAfter s.engine.pointer (fun h => s.table.dirty[h] = true ∧ s.engine.fault[h] = false) 3) ∧
    ({ Engine.reset with run := .running 0 0 } : Engine).run ≠ .idle ∧
    engineMayStart (station .joining).control.station = false ∧
    ∀ h : Group, ¬ ((station .operating).table.dirty[h] = true ∧ s.engine.fault[h] = false) := by
  unfold FirstAfter
  decide

/-- A record that a raise fills, one that no raise fills as the kind is masked, and one that holds something. -/
theorem test_premises_raises :
    let e := EventUnit.reset
    let m := { EventUnit.reset with mask := 1 }
    (e.record = none ∧ Fills e (raiseAbout .uplinkDark 0)) ∧
    (m.record = none ∧ ¬ Fills m (raiseAbout .uplinkDark 0) ∧ Fills m (raiseAbout .mapFault 0)) ∧
    ({ e with record := some (raiseOf .busGiveUp) } : EventUnit).record = some (raiseOf .busGiveUp) := by
  unfold Fills Counts
  decide

/-- An event that changes a contribution of group 1, and one that changes none. -/
theorem test_premises_tableFollows :
    let s := withPeer (Peer.reset .present)
    let row := (Vector.replicate 8 Candidate.unheard).set 0 ⟨.peerReport, some .lit, 1, 10⟩
    let t := { s with table := { s.table with rows := s.table.rows.set 3 row } }
    contribution (candidateAt t.table.rows 24) ≠ contribution (candidateAt s.table.rows 24) ∧
    NamesGroup 1 (contribution (candidateAt t.table.rows 24)) ∧
    ∀ u : UplinkId, contribution (candidateAt s.table.rows u) = contribution (candidateAt s.table.rows u) := by
  unfold NamesGroup
  exact ⟨by decide, by decide, fun _ => rfl⟩

/-- A demand that merges, one that adds an entry, one that the state drops, and one that a LEAVE drops. -/
theorem test_premises_demands :
    let s := station .operating
    let q := { s with bus := { Bus.reset with queue := [reportEntry false] } }
    let l := { s with bus := { Bus.reset with queue := [leaveEntry] } }
    (transmitAllowed s.control.station .report = true ∧ leaveStands s.bus = false ∧
      ∀ e ∈ s.bus.queue, e.kind ≠ .report) ∧
    (leaveStands q.bus = false ∧ ∃ e ∈ q.bus.queue, e.kind = .report) ∧
    transmitAllowed (station .muted).control.station .report = false ∧ leaveStands l.bus = true := by decide

theorem test_premises_quietRequestsTakeStationOffBus :
    ((station .joining).pins.attn = false ∧ (station .joining).control.station = .joining) ∧
    ((station .muted).pins.attn = false ∧ (station .muted).control.station ≠ .joining ∧
      (station .muted).control.station ≠ .operating) ∧
    ({ station .quiet with pins := { Pins.reset with attn := true } } : State).pins.attn = true ∧
    ((station .operating).spi = .opened ∧ (station .operating).control.station = .operating) := by decide

theorem test_premises_wakeReturnsToJoining : (station .quiet).spi = .opened ∧
    (station .quiet).control.station = .quiet ∧ (station .quiet).control.restartPending = false := by decide

theorem test_premises_restartByState :
    ((station .operating).spi = .opened ∧ (station .operating).control.station = .operating) ∧
    (let s := { station .quiet with control := { Control.reset 2 with station := .quiet, restartPending := true } }
     s.spi = .opened ∧ s.control.station = .quiet ∧ s.control.restartPending = true) ∧
    (let s := { station .quiet with bus := { Bus.reset with queue := [leaveEntry] } }
     s.spi = .opened ∧ s.control.station = .quiet ∧ s.control.restartPending = false ∧
     s.bus.queue.any (fun e => e.kind == .leave) = true) ∧
    ((station .quiet).control.restartPending = false ∧
      (station .quiet).bus.queue.any (fun e => e.kind == .leave) = false ∧ (station .quiet).bus.inFlight = none) ∧
    ((station .muted).control.station = .muted ∧ (station .configFault).control.station = .configFault) := by decide

theorem test_premises_transactionsOpenAndEnd :
    (isInspection .status = true ∧ State.reset.spi ≠ .opened) ∧
    ((station .quiet).spi = .opened ∧ (station .quiet).control.station ≠ .loading) := by decide

theorem test_premises_checksDecideStatus :
    (isInspection (.drain 9) = true ∧ (station .loading).spi = .opened ∧
      (station .loading).control.station = .loading) ∧
    ((station .configFault).control.station ≠ .loading ∧ argumentBad (.drain 8) = true ∧
      argumentBad (.drain 7) = false ∧
      argumentBad (.readEntry 3 2048 0) = true ∧ argumentBad (.readEntry 3 2047 1) = false ∧
      argumentBad (.readEntry 0 0 2) = true) ∧
    (namesOffPort (station .configFault) (.drain 3) = true) ∧
    (namesOffPort (station .quiet) .quiet = false ∧ allowedNow (station .quiet) .quiet = false) ∧
    (argumentBad .quiet = false ∧ namesOffPort (station .operating) .quiet = false ∧
      allowedNow (station .operating) .quiet = true) := by decide

theorem test_premises_replyPlaces :
    ((station .operating).spi = .opened ∧ (station .operating).control.station ≠ .loading) ∧
    ((station .operating).engine.run = .idle ∧
      ({ station .operating with engine := { Engine.reset with run := .running 3 2047 } } : State).engine.run =
        .running 3 2047) ∧
    ((withPeer { Peer.reset .present with report := some (bodyFacts .state []) }).peers[(3 : StationNo)].report =
        some (bodyFacts .state []) ∧ (station .operating).peers[(3 : StationNo)].report = none) ∧
    ((station .operating).events.record = none ∧
      ({ station .operating with
        events := { EventUnit.reset with
          record := some { kind := .peerLost, subject := some 3 } } } : State).events.record
        = some { kind := .peerLost, subject := some 3 }) := by decide

/-- A candidate of group 1, an entry with weight 0 and one that carries no traffic. -/
theorem test_premises_candidates :
    isCandidate ⟨.peerReport, some .lit, 1, 1⟩ = true ∧ isCandidateOf 1 ⟨.peerReport, some .lit, 1, 1⟩ = true ∧
    isCandidate ⟨.ownPort, some .lit, 1, 0⟩ = false ∧ isCandidate ⟨.ownPort, some .holding, 1, 5⟩ = false := by decide

/-- R182: INT_N released after reset, and driven low once a FATAL event is pending. -/
theorem test_interruptPin : interruptPin EventUnit.reset = .released ∧
    after .loadingTimeout State.reset (fun t => interruptPin t.events == .drivenLow) = true := by decide

theorem test_premises_eventCommandsAct :
    (station .muted).spi = .opened ∧ (station .muted).control.station ≠ .loading ∧
    (∀ k ∈ eventKinds, isPending (clearFlags 0xFFF { EventUnit.reset with pending := 0x401 }).pending k = false) ∧
    isPending (clearFlags 0x001 { EventUnit.reset with pending := 0x401 }).pending .stationClash = true := by decide

theorem test_premises_drainTakesPortOut :
    let s := withPort (portIn .lit .light)
    let d := withPort (portIn .drained .light)
    (s.spi = .opened ∧ receiveOn s.control.station = true ∧ s.ports[(7 : PortNo)].condition ≠ .off ∧
      s.ports[(7 : PortNo)].condition ≠ .drained) ∧ d.ports[(0 : PortNo)].condition = .drained := by decide

theorem test_premises_undrainReturnsPort :
    let s := withPort (portIn .drained .light)
    let r := { s with params := { s.params with rampSteps := 1 } }
    let n := withPort (portIn .drained .noLight)
    (s.spi = .opened ∧ receiveOn s.control.station = true ∧ s.ports[(7 : PortNo)].condition = .drained ∧
      s.ports[(7 : PortNo)].light ≠ .noLight ∧ 2 ≤ s.params.rampSteps.toNat) ∧
    (r.ports[(7 : PortNo)].light ≠ .noLight ∧ r.params.rampSteps.toNat = 1) ∧
    n.ports[(7 : PortNo)].light = .noLight := by decide

theorem test_premises_cadenceWindowJudgesPorts :
    let s := { station .operating with
      cadenceTimer := .running 0
      ports := #v[Port.reset,
        { portIn .dark .noLight with transitionSeen := true }, { portIn .lit .light with transitionSeen := true },
        portIn .lit .light, portIn .lit .flicker, portIn .holding .flicker, portIn .drained .flicker,
        portIn .dark .noLight] }
    isRunning s.cadenceTimer = true ∧ s.ports[(0 : PortNo)].enabled = false ∧
    (s.ports[(1 : PortNo)].enabled = true ∧ s.ports[(1 : PortNo)].losSeen = false ∧
      s.ports[(1 : PortNo)].transitionSeen = true ∧ s.ports[(1 : PortNo)].condition = .dark) ∧
    (s.ports[(2 : PortNo)].transitionSeen = true ∧ s.ports[(2 : PortNo)].condition ≠ .dark) ∧
    (s.ports[(3 : PortNo)].transitionSeen = false ∧ s.ports[(3 : PortNo)].light = .light) ∧
    (s.ports[(4 : PortNo)].light = .flicker ∧ carriesTraffic s.ports[(4 : PortNo)].condition = true) ∧
    (s.ports[(5 : PortNo)].light = .flicker ∧ s.ports[(5 : PortNo)].condition = .holding) ∧
    (s.ports[(6 : PortNo)].light = .flicker ∧ s.ports[(6 : PortNo)].condition ≠ .holding ∧
      carriesTraffic s.ports[(6 : PortNo)].condition = false) ∧
    s.ports[(7 : PortNo)].light = .noLight ∧
    (windowDarkens s.ports[(4 : PortNo)] = true ∧
      ∀ p : PortNo, windowDarkens (withPort (portIn .lit .light)).ports[p] = false) := by decide

theorem test_premises_monitorInputsChange :
    let s := withPort (portIn .lit .light)
    (isRunning s.cadenceTimer = true ∧ s.ports[(0 : PortNo)].enabled = true) ∧
    (isRunning (station .loading).cadenceTimer = false ∧ (station .loading).ports[(0 : PortNo)].enabled = false) ∧
    (s.pins.los[(0 : PortNo)] = false ∧ s.ports[(0 : PortNo)].light ≠ .noLight ∧
      carriesTraffic s.ports[(0 : PortNo)].condition = true) ∧
    ((withPort (portIn .holding .light)).ports[(0 : PortNo)].condition = .holding) ∧
    ((withPort (portIn .drained .light)).ports[(0 : PortNo)].condition ≠ .holding ∧
      carriesTraffic (withPort (portIn .drained .light)).ports[(0 : PortNo)].condition = false) ∧
    (withPort (portIn .dark .noLight)).ports[(0 : PortNo)].light = .noLight := by decide

theorem test_premises_restoreAndRampExpiries :
    let h := withPort { portIn .holding .light with restore := .running 0 }
    let r := withPort { portIn .ramping .light with ramp := .running 0, step := 1 }
    let q := withPort { portIn .ramping .light with ramp := .running 0, step := 3 }
    let e := withPort { portIn .ramping .light with ramp := .running 0, step := 1, weight := 1 }
    (h.ports[(0 : PortNo)].condition = .holding ∧ isRunning h.ports[(0 : PortNo)].restore = true ∧
      2 ≤ h.params.rampSteps.toNat ∧ ({ h.params with rampSteps := 1 } : Params).rampSteps.toNat = 1) ∧
    (r.ports[(0 : PortNo)].condition = .ramping ∧ isRunning r.ports[(0 : PortNo)].ramp = true ∧
      r.ports[(0 : PortNo)].step + 1 < r.params.rampSteps.toNat ∧
      effectiveWeight 4 { r.ports[(0 : PortNo)] with step := 2 } ≠ effectiveWeight 4 r.ports[(0 : PortNo)]) ∧
    effectiveWeight 4 { e.ports[(0 : PortNo)] with step := 2 } = effectiveWeight 4 e.ports[(0 : PortNo)] ∧
    q.ports[(0 : PortNo)].step + 1 = q.params.rampSteps.toNat := by decide

theorem test_premises_effectiveWeights :
    1 ≤ (portIn .lit .light).weight.toNat ∧ (portIn .lit .light).condition = .lit ∧
    (let p := { portIn .ramping .light with step := 7 }
     p.condition = .ramping ∧ 1 ≤ p.step ∧ p.step < 8) ∧
    ((portIn .degraded .light).condition = .degraded ∧ 2 ≤ (portIn .degraded .light).weight.toNat) ∧
    carriesTraffic (portIn .holding .light).condition = false := by decide

theorem test_premises_counterCrossesOnce :
    (16 : Byte) ≠ 0 ∧ errorCount .slip { Grader.reset with slip := 15 } = Nat.repeat saturatingByte 15 0 ∧
    ErrorKind.code ≠ .slip := by decide

theorem test_premises_errorPulseCountsAndCrosses :
    receiveOn (station .loading).control.station = false ∧
    (let s := withPort (portIn .lit .light)
     receiveOn s.control.station = true ∧
     (errorCount .code s.graders[(0 : PortNo)]).toNat + 1 ≠ s.params.threshold.toNat) ∧
    (let s := { withPort (portIn .lit .light) with
       graders := Vector.replicate 8 { Grader.reset with code := 15, slip := 15 } }
     (errorCount .code s.graders[(0 : PortNo)]).toNat + 1 = s.params.threshold.toNat ∧
     s.ports[(0 : PortNo)].enabled = true ∧ actionOf .code s.params = .dark ∧
     carriesTraffic s.ports[(0 : PortNo)].condition = true ∧
     (errorCount .slip s.graders[(0 : PortNo)]).toNat + 1 = s.params.threshold.toNat ∧
     actionOf .slip s.params = .degrade ∧ s.ports[(0 : PortNo)].condition = .lit ∧
     actionOf .code { s.params with codeAction := .report } = .report) ∧
    (let one := { portIn .lit .light with weight := 1 }
     effectiveWeight 4 { one with condition := .degraded } = effectiveWeight 4 one ∧
     effectiveWeight 4 (portIn .degraded .light) ≠ effectiveWeight 4 (portIn .lit .light)) ∧
    (withPort (portIn .holding .light)).ports[(0 : PortNo)].condition = .holding ∧
    (withPort (portIn .degraded .light)).ports[(0 : PortNo)].condition = .degraded ∧
    (withPort (portIn .drained .light)).ports[(0 : PortNo)].condition = .drained := by decide

theorem test_premises_errorWindowJudgesPorts :
    let s := withPort (portIn .degraded .light)
    let l := { s with graders := Vector.replicate 8 { Grader.reset with clean := 3 } }
    let m := { s with graders := Vector.replicate 8 { Grader.reset with codeMark := true } }
    (isRunning s.errorTimer = true ∧ s.ports[(0 : PortNo)].enabled = true ∧
      s.ports[(0 : PortNo)].condition = .degraded ∧
      (∀ k ∈ [ErrorKind.code, .slip, .frame], markOf k s.graders[(0 : PortNo)] = true → actionOf k s.params = .report) ∧
      s.graders[(0 : PortNo)].clean + 1 < s.params.cleanWindows.toNat) ∧
    l.params.cleanWindows.toNat ≤ l.graders[(0 : PortNo)].clean + 1 ∧
    (let one := { portIn .degraded .light with weight := 1 }
     windowRestores l.params one l.graders[(0 : PortNo)] = true ∧ effectiveWeight 4 one = one.weight) ∧
    (∀ p : PortNo, windowRestores s.params s.ports[p] s.graders[p] = false) ∧
    (markOf .code m.graders[(0 : PortNo)] = true ∧ actionOf .code m.params ≠ .report) ∧
    (withPort (portIn .lit .light)).ports[(0 : PortNo)].condition ≠ .degraded := by decide

/-- A station whose line is tracked, with a receiver as given. -/
def tracking (missed : Nat) (receiver : Receiver) : State :=
  { station .operating with
    bus := { Bus.reset with recovery := .track, line := .busy, missed := missed, receiver := receiver } }

/-- A receiver in FRAME that has gathered bytes and seven bits of value 1. -/
def sevenBits (bytes : List Byte) : Receiver :=
  { Receiver.reset with phase := .frame, bytes := bytes, bits := List.replicate 7 true }

theorem test_premises_lineCommands :
    let inFrame := tracking 0 { Receiver.reset with phase := .frame }
    (receiveOn (station .operating).control.station = true ∧ (station .operating).bus.recovery = .seek) ∧
    (receiveOn (tracking 0 Receiver.reset).control.station = true ∧ (tracking 0 Receiver.reset).bus.recovery = .track ∧
      (tracking 0 Receiver.reset).bus.receiver.phase = .hunt) ∧
    (inFrame.bus.receiver.phase = .frame ∧ inFrame.bus.receiver.bits.length < 7 ∧ inFrame.bus.inFlight = none) ∧
    (tracking 0 spentReceiver).bus.receiver.phase = .spent ∧
    (let s := echoing .operating (reportEntry true)
     receiveOn s.control.station = true ∧ s.bus.recovery = .track ∧ s.bus.inFlight.isSome = true) := by decide

/-- R56, R64: in an attempt the first missed cell is a collision, and the line is IDLE after the second. -/
theorem test_missedCellsInAttempt : after (.lineIdle []) (echoing .operating (reportEntry true)) (fun t =>
    counterOf .collisionAborts t == 1 && t.bus.driver == .released && t.bus.inFlight == none && t.bus.line == .idle &&
    t.bus.recovery == .seek && counterOf .truncations t == 0) = true := by decide

/-- The five ends of a frame with seven bits gathered: the second missed cell of a pair, a byte that leaves the frame
short, a first byte that names no kind, and the last byte of a LEAVE. -/
theorem test_premises_lineIdleSevenBits :
    let nextByte := fun s : State => s.bus.receiver.bytes ++ [byteOfBits (s.bus.receiver.bits ++ [true])]
    1 ≤ (tracking 1 (sevenBits [])).bus.missed ∧
    (declaredLength ((nextByte (tracking 0 (sevenBits [0x53]))).headD 0) = some 4 ∧
      4 ≠ (tracking 0 (sevenBits [0x53])).bus.receiver.bytes.length + 1) ∧
    (7 ≤ (tracking 0 (sevenBits [])).bus.receiver.bits.length ∧ (tracking 0 (sevenBits [])).bus.missed = 0 ∧
      declaredLength ((nextByte (tracking 0 (sevenBits []))).headD 0) = none) ∧
    declaredLength ((nextByte (tracking 0 (sevenBits [0x53, 9, 0]))).headD 0) =
      some ((tracking 0 (sevenBits [0x53, 9, 0])).bus.receiver.bytes.length + 1) ∧
    after (.lineIdle []) (tracking 0 (sevenBits [0x53, 9, 0])) (fun t =>
      counterOf .codeViolations t == 1 && counterOf .truncations t == 0) = true ∧
    after (.lineIdle []) (tracking 1 (sevenBits [0x53, 9, 0])) (fun t =>
      counterOf .codeViolations t == 0 && counterOf .truncations t == 1) = true := by decide

theorem test_premises_attemptStartsWithHead :
    let q := [{ kind := .join, urgent := false, attempts := 0 }, reportEntry true]
    let s := { station .operating with bus := { Bus.reset with queue := q, idleCount := 20 } }
    let r := { station .operating with bus := { Bus.reset with queue := [reportEntry false], idleCount := 0 } }
    let o := { s.bus with backoff := some { slots := 3, waiting := true } }
    (IsHead s.bus.queue 1 (reportEntry true) ∧ transmitAllowed s.control.station .report = true ∧
      s.bus.inFlight = none ∧ s.bus.line = .idle ∧ waitOf s.bus (reportEntry true) = 24 ∧
      waitOf s.bus (reportEntry true) ≤ min 255 (s.bus.idleCount + 4) ∧ waitOf o (reportEntry true) = 48) ∧
    (IsHead r.bus.queue 0 (reportEntry false) ∧ waitOf r.bus (reportEntry false) ≤ min 255 (r.bus.idleCount + 48) ∧
      min 255 (r.bus.idleCount + 47) < waitOf r.bus (reportEntry false)) ∧
    ((station .operating).bus.queue = [] ∧ transmitAllowed .muted (reportEntry false).kind = false ∧
      (sending .operating (reportEntry false)).bus.inFlight.isSome = true ∧
      (tracking 0 Receiver.reset).bus.line = .busy) := by
  refine ⟨⟨⟨rfl, .inl ⟨rfl, rfl, fun k hk e he => ?_⟩⟩, by decide⟩,
    ⟨⟨rfl, .inr ⟨rfl, by decide⟩⟩, by decide⟩, by decide⟩
  have hz : k = 0 := by omega
  subst hz
  cases he
  decide

theorem test_premises_filledNoticeReadsBack : PortsOk State.reset := by
  unfold PortsOk PortOk
  decide

theorem test_premises_codedFrameIsHeard : declaredLength 0x52 = some ([9, 0, 0].length + 1) := by decide

theorem test_premises_collisionAbortsAttempt :
    let f : InFlight := { entry := reportEntry false, older := 0, final := false, frame := [0x52, 9, 0, 0] }
    let s := sending .operating (reportEntry false)
    let l := { sending .quiet leaveEntry with
      control := { Control.reset 2 with station := .quiet, restartPending := true } }
    (s.bus.inFlight = some f ∧ (frameCells f.frame)[([] : List Int).length]? = some true ∧ s.bus.recovery = .seek ∧
      collidedFrame f 0 missedCell s.bus = none ∧ f.entry.attempts + 1 < 8 ∧ f.final = false ∧
      f.older ≤ s.bus.queue.length ∧ ∀ e ∈ s.bus.queue, e.kind ≠ f.entry.kind ∧ e.kind ≠ .leave) ∧
    (cellValue missedCell ≠ some true ∧ (frameCells f.frame)[(List.replicate 55 (3 : Int)).length]? = some false) ∧
    8 ≤ ({ reportEntry false with attempts := 7 } : QueueEntry).attempts + 1 ∧
    (l.control.restartPending = true ∧ leaveEntry.kind = .leave ∧ leaveEntry.attempts + 1 < 8 ∧
      8 ≤ ({ leaveEntry with attempts := 7 } : QueueEntry).attempts + 1) ∧
    ({ f with final := true } : InFlight).final = true ∧
    ({ s.bus with queue := [reportEntry true] } : Bus).queue = [reportEntry true] := by decide

/-- A cell that differs, and one that is missed, among those that LINE_IDLE tells. -/
theorem test_premises_collisionOnLineIdle :
    let f : InFlight := { entry := reportEntry false, older := 0, final := false, frame := [0x52, 9, 0, 0] }
    let s := echoing .operating (reportEntry false)
    (receiveOn s.control.station = true ∧ s.bus.recovery = .track ∧ s.bus.inFlight = some f ∧
      HeardAsSent f [cellOf true] ∧ (frameCells f.frame)[[cellOf true].length]? = some true ∧
      cellValue (cellOf false) ≠ some true ∧ [cellOf true].length < (frameCells f.frame).length) ∧
    after (.lineIdle [cellOf true, cellOf false]) s (fun t =>
      counterOf .collisionAborts t == 1 && t.bus.queue.length == 1 && t.bus.line == .idle) = true := by
  unfold HeardAsSent
  decide

/-- An aborted report that finds SOLICIT and an ALERT queued in its time, after section 4.8, and one that finds a LEAVE:
the first merges at its age, the second is dropped. -/
theorem test_premises_abortMerges :
    let f : InFlight := { entry := reportEntry false, older := 0, final := false, frame := [0x52, 9, 0, 0] }
    let solicit : QueueEntry := { kind := .solicit, urgent := false, attempts := 0 }
    let merged : QueueEntry := { kind := .report, urgent := true, attempts := 1 }
    let q := { (sending .operating (reportEntry false)) with
      bus := { (sending .operating (reportEntry false)).bus with queue := [solicit, reportEntry true] } }
    let l := { q with bus := { q.bus with queue := [leaveEntry] } }
    (q.bus.inFlight = some f ∧ q.bus.queue = [solicit] ++ reportEntry true :: [] ∧ f.older ≤ [solicit].length ∧
      (reportEntry true).kind = f.entry.kind ∧ f.entry.kind ≠ .leave ∧
      ∀ x ∈ [solicit] ++ [], x.kind ≠ f.entry.kind ∧ x.kind ≠ .leave) ∧
    (∃ e ∈ l.bus.queue, e.kind = .leave) ∧
    after (.collision [] missedCell) q (fun t => t.bus.queue == [merged, solicit]) = true ∧
    after (.collision [] missedCell) l (fun t => t.bus.queue == [leaveEntry]) = true := by decide

theorem test_premises_attemptCompletes :
    let l := { echoing .quiet leaveEntry with
      control := { Control.reset 2 with station := .quiet, restartPending := true } }
    (∃ f, (echoing .operating (reportEntry true)).bus.inFlight = some f ∧ f.entry.kind ≠ .leave) ∧
    (echoing .operating (reportEntry true)).bus.recovery = .track ∧
    (sending .operating (reportEntry true)).bus.recovery = .seek ∧
    (∃ f, l.bus.inFlight = some f ∧ f.entry.kind = .leave ∧ l.control.restartPending = true ∧
      l.bus.recovery = .track ∧ receiveOn l.control.station = true) :=
  ⟨⟨_, rfl, by decide⟩, rfl, rfl, ⟨_, rfl, by decide, by decide, by decide, by decide⟩⟩

/-- R64, R67: all the cells of an attempt, heard as they were sent, complete it; told complete in SEEK, it aborts. -/
theorem test_premises_completesOnLineIdle :
    let f : InFlight := { entry := reportEntry false, older := 0, final := false, frame := [0x52, 9, 0, 0] }
    let s := echoing .operating (reportEntry false)
    let cells := (frameCells f.frame).map cellOf
    (s.bus.inFlight = some f ∧ HeardAsSent f cells ∧ cells.length = (frameCells f.frame).length) ∧
    after (.lineIdle cells) s (fun t =>
      counterOf .sentState t == 1 && counterOf .collisionAborts t == 0 && t.bus.line == .idle) = true ∧
    after .attemptComplete (sending .operating (reportEntry false)) (fun t =>
      counterOf .sentState t == 0 && counterOf .collisionAborts t == 1) = true := by
  unfold HeardAsSent
  decide

/-- A LEAVE of a station, with its CRC. -/
def leaveFrom (sender : StationNo) (sequence : Byte) : Notice :=
  { kind := .leave, sender := sender, sequence := sequence, body := []
    crc := crc16 [headerByte .leave sender, sequence] }

theorem test_premises_discardedFramesAreCounted :
    let p := withPeer { Peer.reset .present with lastSequence := 9 }
    let u := { station .operating with pins := { Pins.reset with presence := Vector.replicate 16 false } }
    (receiveOn (station .loading).control.station = false ∧
      (sending .operating (reportEntry true)).bus.inFlight.isSome = true ∧
      (leaveFrom 3 9).sender ≠ (sending .operating (reportEntry true)).control.number) ∧
    (receiveOn p.control.station = true ∧ p.bus.inFlight = none ∧ declaredLength (([0x53, 7] : List Byte).getD 0 0) = some (2 + 2) ∧
      crc16 [0x53, 7] + 1 ≠ crc16 [0x53, 7]) ∧
    (noticeOf (.leaveReceived 3 9 ⟨0, []⟩) = some { leaveFrom 3 9 with crc := 0 } ∧ (0 : Half) ≠ (leaveFrom 3 9).crc) ∧
    (noticeOf (.leaveReceived 3 9 ⟨(leaveFrom 3 9).crc, [some 3]⟩) = some (leaveFrom 3 9) ∧
      (leaveFrom 3 9).sender ≠ p.control.number) ∧
    (u.params.presenceInUse = true ∧ u.pins.presence[(3 : StationNo)] = false) ∧
    (p.pins.presence[(3 : StationNo)] = true ∧ (leaveFrom 3 9).kind ≠ .join ∧
      p.peers[(3 : StationNo)].state = .present ∧
      (256 + (leaveFrom 3 9).sequence.toNat - p.peers[(3 : StationNo)].lastSequence.toNat) % 256 = 0 ∧
      128 ≤ (256 + (leaveFrom 3 137).sequence.toNat - p.peers[(3 : StationNo)].lastSequence.toNat) % 256) := by decide

theorem test_premises_clashMutesStation :
    noticeOf (.leaveReceived 2 9 ⟨(leaveFrom 2 9).crc, []⟩) = some (leaveFrom 2 9) ∧
    (leaveFrom 2 9).sender = (station .joining).control.number ∧ (station .joining).control.station = .joining ∧
    ((station .quiet).control.station = .quiet ∧ (station .quiet).control.restartPending = false) ∧
    (station .muted).control.station = .muted ∧ (station .muted).bus.inFlight = none ∧
    ((echoing .operating (reportEntry true)).bus.inFlight.isSome = true ∧
      (echoing .operating (reportEntry true)).bus.recovery = .track ∧
      (sending .operating (reportEntry true)).bus.recovery = .seek) ∧
    ({ Control.reset 2 with station := .quiet, restartPending := true } : Control).restartPending = true := by decide

/-- R13, R60: a clash in an attempt cuts it, and the receiver has decoded the cells told. -/
theorem test_clashInAttempt :
    after (.leaveReceived 2 9 ⟨(leaveFrom 2 9).crc, [some 0, some 0]⟩) (echoing .operating (reportEntry true)) (fun t =>
      t.control.station == .muted && t.bus.inFlight == none && t.bus.receiver.phase == .hunt &&
      t.bus.receiver.run == 2) = true := by decide

/-- The table of R83, row by row and at its ends. -/
theorem test_reportBytesRead :
    let report : Vector Byte 8 := #v[0x3F, 0x41, 0x50, 0x0F, 0x12, 0x63, 0x7F, 0xF0]
    let facts := bodyFacts .state (31 :: report.toList ++ [0x1B, 0x00, 0, 0])
    facts.toList.map Fact.condition = [.ramping, .lit, .dark, .off, .dark, .drained, .dark, .dark] ∧
    facts.toList.map (fun f => f.weight.toNat) = [15, 1, 0, 0, 0, 0, 0, 0] ∧
    facts.toList.map (fun f => f.group.val) = [0, 1, 2, 3, 0, 0, 0, 0] ∧
    ReadAs (fun p => report[p]) 0x1B00 facts := by
  refine ⟨by decide, by decide, by decide, fun p => ⟨by revert p; decide, fun c => ?_, by revert p; decide⟩⟩
  cases c <;> revert p <;> decide

/-- A JOIN of station 3 with the given announce byte. -/
def joinFrom (announce : Byte) : Notice :=
  { kind := .join, sender := 3, sequence := 0
    body := [2, 0x03, 0xE8, announce, 31] ++ List.replicate 12 0
    crc := crc16 (0x13 :: 0 :: ([2, 0x03, 0xE8, announce, 31] ++ List.replicate 12 0)) }

theorem test_premises_joinMovesPeer :
    Arrives (joinFrom 50) (station .operating) ∧ Arrives (joinFrom 51) (station .joining) ∧
    joinEqual (joinFrom 50) (station .operating).params = true ∧
    joinEqual (joinFrom 51) (station .operating).params = false ∧
    (withPeer { Peer.reset .mismatch with source := some .byJoin }).peers[(3 : StationNo)].state = .mismatch ∧
    (withPeer (Peer.reset .present)).peers[(3 : StationNo)].state = .present := by
  unfold Arrives
  decide

/-- A STATE of station 3 that carries a checksum and a digest, with every port OFF. -/
def stateFrom (checksum : Byte) (digest : Half) : Notice :=
  { kind := .state, sender := 3, sequence := 10
    body := checksum :: (List.replicate 10 0 ++ [highByte digest, lowByte digest])
    crc := crc16 (0x23 :: 10 :: checksum :: (List.replicate 10 0 ++ [highByte digest, lowByte digest])) }

theorem test_premises_reportMovesPeer :
    let s := withPeer { Peer.reset .present with lastSequence := 9, report := some (bodyFacts .state []) }
    let d := withPeer { Peer.reset .present with lastSequence := 9, divergence := 2 }
    let j := withPeer { Peer.reset .mismatch with lastSequence := 9, source := some .byJoin }
    (Arrives (stateFrom 31 0xF00A) s ∧ Accepted (stateFrom 31 0xF00A) s ∧
      bodyChecksum .state (stateFrom 31 0xF00A).body = s.params.checksum ∧
      s.peers[(3 : StationNo)].state = .present) ∧
    ((frameReceived (stateFrom 31 0xF00A) [] s).table.digest = bodyDigest .state (stateFrom 31 0xF00A).body ∧
      (frameReceived (stateFrom 31 0) [] s).table.digest ≠ bodyDigest .state (stateFrom 31 0).body ∧
      s.peers[(3 : StationNo)].divergence < 2 ∧ d.peers[(3 : StationNo)].divergence = 2) ∧
    (s.notices.holdoff = .stopped ∧ transmitAllowed s.control.station .solicit = true ∧ leaveStands s.bus = false) ∧
    (bodyChecksum .state (stateFrom 30 0).body ≠ s.params.checksum) ∧
    (j.peers[(3 : StationNo)].state = .mismatch ∧ j.peers[(3 : StationNo)].source = some .byJoin) := by
  unfold Arrives Accepted
  decide

theorem test_premises_solicitAsksForReport :
    let n : Notice := { kind := .solicit, sender := 3, sequence := 10, body := [0, 0], crc := crc16 [0x43, 10, 0, 0] }
    let s := withPeer { Peer.reset .present with lastSequence := 9 }
    (Arrives n s ∧ Accepted n s ∧ s.peers[(3 : StationNo)].state = .present) ∧
    (Arrives n (station .operating) ∧ Accepted n (station .operating) ∧
      (station .operating).peers[(3 : StationNo)].state ≠ .present) := by
  unfold Arrives Accepted
  decide

theorem test_premises_peerIsLost :
    let s := withPeer { Peer.reset .present with lastSequence := 9, silence := .running 0 }
    let m := withPeer { Peer.reset .mismatch with lastSequence := 9, silence := .running 0, source := some .byJoin }
    (Arrives (leaveFrom 3 10) s ∧ Accepted (leaveFrom 3 10) s ∧ s.peers[(3 : StationNo)].state = .present) ∧
    (Accepted (leaveFrom 3 10) m ∧ m.peers[(3 : StationNo)].state ≠ .present) ∧
    (isRunning s.peers[(3 : StationNo)].silence = true ∧ isRunning m.peers[(3 : StationNo)].silence = true ∧
      m.peers[(3 : StationNo)].state = .mismatch) ∧
    (s.pins.presence[(3 : StationNo)] = true ∧ receiveOn s.control.station = true ∧ s.params.presenceInUse = true) ∧
    (receiveOn (station .loading).control.station = false ∧
      (station .operating).peers[(2 : StationNo)].state = .localEntry ∧
      (station .operating).peers[(3 : StationNo)].state = .absent) := by
  unfold Arrives Accepted
  decide

theorem test_premises_announceAndHoldoffExpiries :
    let s := { station .operating with notices := { Notices.reset with announce := .running 0 } }
    let q := { s with bus := { Bus.reset with queue := [reportEntry false] } }
    (isRunning s.notices.announce = true ∧ (∀ e ∈ s.bus.queue, e.kind ≠ .report) ∧
      (∀ f ∈ s.bus.inFlight, f.entry.kind ≠ .report) ∧ leaveStands s.bus = false ∧
      transmitAllowed s.control.station .report = true) ∧
    (∃ e ∈ q.bus.queue, e.kind = .report) ∧ transmitAllowed (station .muted).control.station .report = false ∧
    leaveStands ({ Bus.reset with queue := [leaveEntry] } : Bus) = true := by
  decide

theorem test_premises_bucketCommands :
    let s := { station .operating with engine := { Engine.reset with run := .running 1 1022 } }
    let l := { station .operating with engine := { Engine.reset with run := .running 1 1023 } }
    let j := { station .joining with
      engine := { Engine.reset with run := .running 1 0, retried := Vector.replicate 4 true } }
    (s.engine.run = .running 1 1022 ∧ Memory.wf s.map.words = true ∧ s.engine.score = ScoreUnit.reset ∧
      1023 = 1022 + 1 ∧ 1023 < bucketCount s.params.bucketCode) ∧
    1023 + 1 = bucketCount l.params.bucketCode ∧
    ((1 : MapWord) ≠ 0 ∧ s.engine.retried[(1 : Group)] = false ∧ engineMayStart s.control.station = true) ∧
    (j.control.station = .joining ∧ j.engine.retried[(1 : Group)] = true) := by decide

theorem test_premises_scores :
    (([⟨3, 10⟩, ⟨11, 10⟩, ⟨17, 1⟩] : List SnapshotPair).map SnapshotPair.uplink).Pairwise (· < ·) ∧
    (2 ≤ ([⟨3, 10⟩, ⟨11, 10⟩, ⟨17, 1⟩] : List SnapshotPair).length) ∧
    ([⟨3, 10⟩, ⟨17, 1⟩] : List SnapshotPair).Sublist [⟨3, 10⟩, ⟨11, 10⟩, ⟨17, 1⟩] ∧
    ((11 : UplinkId) ∉ ([⟨3, 10⟩, ⟨17, 1⟩] : List SnapshotPair).map SnapshotPair.uplink) ∧
    ([⟨11, 10⟩, ⟨17, 1⟩] : List SnapshotPair).Sublist [⟨3, 10⟩, ⟨11, 10⟩, ⟨17, 1⟩] ∧
    ((14 : Half).toNat % 65521 = (65535 : Half).toNat % 65521) ∧
    (5 : Weight).toNat ≤ (10 : Weight).toNat ∧ (3 : UplinkId) ≠ 11 ∧
    scoreKey 0 5 3 = scoreKey 0 5 3 ∧ Nat.Prime 65519 := by
  refine ⟨by decide, by decide, by decide, by decide, by decide, by decide, by decide, by decide, rfl, by norm_num⟩

/-- Section 7.4 again, with uplink 11 added, raised and lowered: it takes the bucket, keeps it at a higher weight,
leaves the entry where its score stays, and yields the bucket to the backup; and uplink 17, raised, does not outrank
it. -/
theorem test_premises_oneWeightMovesOnlyItsOwn :
    let low : List SnapshotPair := [⟨3, 10⟩, ⟨11, 1⟩, ⟨17, 1⟩]
    let high : List SnapshotPair := [⟨3, 10⟩, ⟨11, 10⟩, ⟨17, 1⟩]
    let other : List SnapshotPair := [⟨3, 10⟩, ⟨11, 10⟩, ⟨17, 2⟩]
    (high.map SnapshotPair.uplink).Pairwise (· < ·) ∧
    high = [⟨3, 10⟩] ++ ⟨11, 10⟩ :: [⟨17, 1⟩] ∧ low = [⟨3, 10⟩] ++ ⟨11, 1⟩ :: [⟨17, 1⟩] ∧
    bucketPrimary 1000 0 5 low = some 3 ∧ bucketPrimary 1000 0 5 high = some 11 ∧
    bucketPrimary 1000 0 5 ([⟨3, 10⟩] ++ [⟨17, 1⟩]) = some 3 ∧ bucketBackup 1000 0 5 high = some 3 ∧
    weightedScore 0 0 0 ⟨0, 7⟩ = weightedScore 0 0 0 ⟨0, 3⟩ ∧
    (other.map SnapshotPair.uplink).Pairwise (· < ·) ∧
    (∃ z ∈ high, z.uplink = 3 ∧ (10 : Weight).toNat ≤ z.weight.toNat) ∧ RanksAbove 1000 0 5 ⟨11, 10⟩ ⟨17, 2⟩ := by
  unfold RanksAbove
  decide

/-- The shapes of an entry: with a backup, without one, and EMPTY; a backup alone and a backup twice are none. -/
theorem test_entryShapes : EntryShape (some 11) (some 3) ∧ EntryShape (some 127) none ∧ EntryShape none none ∧
    ¬ EntryShape none (some 0) ∧ ¬ EntryShape (some 0) (some 0) := by
  refine ⟨?_, ?_, ?_, fun h => (h 0 rfl).1 rfl, fun h => (h 0 rfl).2 rfl⟩ <;> intro v h <;> cases h
  decide

/-- The four ways in which a word of odd parity is no entry, and a word of even parity. -/
theorem test_premises_mapWords :
    (let absent := 0b00000001000000000#17
     absent.getLsbD 16 = false ∧ absent.extractLsb' 9 7 ≠ 0 ∧ bitsSet absent % 2 = 1) ∧
    (let absent := 0b10000000000000011#17
     absent.getLsbD 8 = false ∧ absent.extractLsb' 1 7 ≠ 0 ∧ bitsSet absent % 2 = 1) ∧
    (let alone := 0b00000000100000000#17
     alone.getLsbD 16 = false ∧ alone.getLsbD 8 = true ∧ bitsSet alone % 2 = 1) ∧
    (let equal := 0b10000000100000001#17
     equal.getLsbD 16 = true ∧ equal.getLsbD 8 = true ∧ equal.extractLsb' 9 7 = equal.extractLsb' 1 7 ∧
     bitsSet equal % 2 = 1) ∧
    bitsSet 0b10001011100000111#17 % 2 = 0 ∧ readWord (mapWord (some 11) (some 3)) = some (some 11, some 3) := by
  decide

theorem test_premises_requestIsTaken :
    let f := { station .operating with
      lookup := { LookupPort.reset with
        fifo := List.replicate 8 { group := 0, bucket := 0, tag := 0 }, service := some .notReady, ready := false } }
    let w := serving .notReady
    LookupOk f ∧ MapOk f ∧ f.lookup.ready = false ∧
    (LookupOk w ∧ MapOk w ∧ w.lookup.ready = true ∧ w.lookup.fifo ≠ []) ∧
    (LookupOk (station .operating) ∧ MapOk (station .operating) ∧ (station .operating).lookup.fifo = []) := by
  unfold LookupOk MapOk
  decide

/-- The entry read in a state that does not serve, of a group that has not flipped, of a sound word and of a bad one;
the reduced bucket of the last request is its own remainder by 1,024. -/
theorem test_premises_readsEntry :
    let s := { station .operating with map := { MapMemory.reset with generation := Vector.replicate 4 1 } }
    ((station .quiet).control.station ≠ .operating ∧ (station .quiet).control.station ≠ .muted) ∧
    (station .operating).map.generation[(1 : Group)] = 0 ∧
    (s.control.station = .operating ∧ s.map.generation[(1 : Group)] ≠ 0 ∧
      (1023 : Bucket).val = (2047 : Bucket).val % (256 * 2 ^ s.params.bucketCode.toNat) ∧
      readWord (storedWord 1 s.map.active[(1 : Group)] 1023 s.map ^^^ 0) = some (none, none) ∧
      readWord (storedWord 1 s.map.active[(1 : Group)] 1023 s.map ^^^ 1) = none) := by decide

/-- Candidate rows where uplinks 24 and 25 are candidates of group 1. -/
def litRows : Vector (Vector Candidate 8) 16 :=
  (CandidateTable.reset 2).rows.set 3
    (((Vector.replicate 8 Candidate.unheard).set 0 ⟨.peerReport, some .lit, 1, 10⟩).set 1
      ⟨.peerReport, some .lit, 1, 10⟩)

theorem test_premises_replyNamesOnlyCandidates :
    let r : Request := { group := 1, bucket := 5, tag := 9 }
    let two := { station .operating with
      lookup := { LookupPort.reset with fifo := [r, r], service := some .parityFailure } }
    (LookupOk (serving .notReady) ∧ MapOk (serving .notReady) ∧ (serving .notReady).lookup.fifo = [r] ∧
      (serving .notReady).lookup.service = some .notReady) ∧
    (LookupOk two ∧ MapOk two ∧ two.lookup.fifo = r :: [r] ∧ [r].head? = some r ∧
      two.lookup.service = some .parityFailure) ∧
    (isCandidateOf 1 (candidateAt litRows 24) = true ∧ isCandidateOf 1 (candidateAt litRows 25) = true ∧
      isCandidateOf 1 (candidateAt litRows 42) = false ∧
      ∀ x < (24 : UplinkId), isCandidateOf 1 (candidateAt litRows x) = false) ∧
    (∀ u : UplinkId, isCandidateOf 1 (candidateAt (serving .parityFailure).table.rows u) = false) := by
  unfold LookupOk MapOk
  decide

theorem test_premises_stepKeepsMapAndEvents : MapOk (station .operating) ∧ EventsOk (station .operating) ∧
    step (station .operating) = .next (tick (station .operating)) := by
  refine ⟨?_, ?_, rfl⟩
  · unfold MapOk; decide
  · unfold EventsOk; decide

theorem test_premises_stepKeepsQueueAndControl :
    QueueOk (sending .operating (reportEntry true)) ∧ ControlOk (sending .operating (reportEntry true)) := by
  unfold QueueOk ControlOk
  decide

theorem test_premises_stepKeepsMonitors :
    let s := withPort { Port.reset with enabled := true, weight := 10, condition := .dark }
    PortsOk s ∧ GradersOk s ∧ DormantOk s := by
  unfold PortsOk PortOk GradersOk DormantOk
  refine ⟨by decide, by decide, ?_⟩
  intro h
  exact absurd h (by decide)

theorem test_premises_stepKeepsTables :
    PeersOk (station .operating) ∧ SourcesOk (station .operating) ∧ DigestOk (station .operating) := by
  unfold PeersOk PeerOk SourcesOk DigestOk
  decide

/-- An IDLE engine, and one that runs with a snapshot of two candidates. -/
theorem test_premises_stepKeepsEngine : EngineOk (station .operating) ∧
    EngineOk { station .operating with
      engine := { Engine.reset with run := .running 1 5, snapshot := snapshotOf litRows 1 } } ∧
    snapshotOf litRows 1 = [⟨24, 10⟩, ⟨25, 10⟩] := by
  refine ⟨⟨fun g b h => ?_, by decide, fun _ _ => by decide, by decide, by decide⟩,
    ⟨fun g b h => ?_, by decide, fun h => ?_, by decide, by decide⟩, by decide⟩
  · cases h
  · cases h; decide
  · cases h

theorem test_premises_stepKeepsPorts :
    LookupOk (serving .notReady) ∧ LineOk (serving .notReady) ∧ DriverOk (serving .notReady) := by
  unfold LookupOk LineOk DriverOk
  decide

/-- R179: the bytes that the host reads of a reply of one byte. -/
theorem test_premises_miso : ([7] : List Byte)[0]? = some 7 ∧ ([7] : List Byte).length ≤ 1 ∧
    [0, 1, 2].map (misoByte (.taken 0x5A [7])) = [0x5A, 7, 0xFF] := by decide

/-- R164: STATUS on the SPI bus is taken at the eighth rise of SCK and not before, and the host reads fill beside it,
then the status and a byte of reply. -/
theorem test_spiBits : commandClockedIn ((byteEdges 0x10).take 15) = some .status ∧
    commandClockedIn ((byteEdges 0x10).take 14) = none ∧
    misoRead 1 (.taken 0x5A [7]) SpiShift.start (([0x10, 0, 0] : List Byte).flatMap byteEdges) =
      List.replicate 8 true ++ [false, true, false, true, true, false, true, false] ++
        [false, false, false, false, false, true, true, true] := by decide

theorem test_premises_inspectionBytesTakeCommand :
    (Instr.readEntry 1 0x0405 0).wf = true ∧
    inspectionBytes (.readEntry 1 0x0405 0) = some [0x14, 1, 0x04, 0x05, 0] := by decide

end Sys2Proof.Tests
end

section
/-! The error grader: what one pulse does to a counter and its mark, and the pulses of one window (R37 to R41). -/

namespace Sys2Proof.Machine

/-! ### One pulse at a counter -/

theorem saturatingByte_toNat (count : Byte) : (saturatingByte count).toNat = min (count.toNat + 1) 255 := by
  unfold saturatingByte
  split
  case isTrue full => subst full; rfl
  case isFalse below => bv_omega

/-- On numbers: the guard of `crosses` shuts out the counter at 255, whose sum would wrap to 0 (R40). -/
theorem crosses_eq_decide (threshold count : Byte) :
    crosses threshold count = decide (count.toNat + 1 = threshold.toNat) := by
  rw [Bool.eq_iff_iff]
  simp only [crosses, Bool.and_eq_true, bne_iff_ne, beq_iff_eq, decide_eq_true_eq]
  bv_omega

/-! ### A pulse at the grader: the counter and the mark of its kind, and no other -/

@[simp] theorem errorCount_countPulse_same (kind : ErrorKind) (threshold : Byte) (g : Grader) :
    errorCount kind (countPulse kind threshold g) = saturatingByte (errorCount kind g) := by
  cases kind <;> rfl

@[simp] theorem markOf_countPulse_same (kind : ErrorKind) (threshold : Byte) (g : Grader) :
    markOf kind (countPulse kind threshold g) = (markOf kind g || crosses threshold (errorCount kind g)) := by
  cases kind <;> rfl

theorem countPulse_keeps_other {k kind : ErrorKind} (other : k ≠ kind) (threshold : Byte) (g : Grader) :
    errorCount k (countPulse kind threshold g) = errorCount k g ∧
      markOf k (countPulse kind threshold g) = markOf k g := by
  cases kind with
  | code =>
    cases k with
    | code => exact absurd rfl other
    | slip | frame => exact ⟨rfl, rfl⟩
  | slip =>
    cases k with
    | slip => exact absurd rfl other
    | code | frame => exact ⟨rfl, rfl⟩
  | frame =>
    cases k with
    | frame => exact absurd rfl other
    | code | slip => exact ⟨rfl, rfl⟩

/-! ### The pulses of one window -/

/-- A window's counter after `n` pulses, from the 0 at which the window begins (R37, R39). -/
theorem repeat_saturatingByte_toNat (n : Nat) : (Nat.repeat saturatingByte n 0).toNat = min n 255 := by
  induction n with
  | zero => rfl
  | succ n ih =>
    calc (saturatingByte (Nat.repeat saturatingByte n 0)).toNat
        = min ((Nat.repeat saturatingByte n 0).toNat + 1) 255 := saturatingByte_toNat _
      _ = min (n + 1) 255 := by omega

/-- Of a window's pulses the one that crosses is the `T`-th; a saturated counter never crosses, for `T` is at most 255
(R40). -/
theorem crosses_repeat_saturatingByte (threshold : Byte) (n : Nat) :
    crosses threshold (Nat.repeat saturatingByte n 0) = decide (n + 1 = threshold.toNat) := by
  have bound : threshold.toNat < 256 := threshold.isLt
  have saturates : min n 255 + 1 = threshold.toNat ↔ n + 1 = threshold.toNat := by omega
  rw [crosses_eq_decide, repeat_saturatingByte_toNat, decide_eq_decide.mpr saturates]

/-- Settles O25: a counter after `n` pulses of its window holds `min n 255`, so it meets `T` at the `T`-th pulse alone,
and the pulse touches the counter and the mark of its own kind only. -/
theorem counterCrossesOnce : Obligations.CounterCrossesOnce := by
  intro threshold n _
  refine ⟨repeat_saturatingByte_toNat n, crosses_repeat_saturatingByte threshold n, fun kind g counted => ⟨?_, ?_, ?_⟩⟩
  · exact fun k other => countPulse_keeps_other other threshold g
  · rw [errorCount_countPulse_same, counted]
    rfl
  · rw [markOf_countPulse_same, counted, crosses_repeat_saturatingByte]

end Sys2Proof.Machine
end

section
/-! The bucket scoring arithmetic (chapter 7): the keys and their triples, the bounds of the scores, and what the entry
of a bucket says about the ranks of the candidates (R116 to R122, R128). -/

namespace Sys2Proof.Machine

/-! ### Keys (R116) -/

theorem scoreKey_le (g : Group) (b : Bucket) (u : UplinkId) : scoreKey g b u ≤ 1048575 := by
  unfold scoreKey
  omega

/-- The three places of a key: a group of 4, a bucket of 2048 and an uplink of 128. -/
theorem scoreKey_places (g : Group) (b : Bucket) (u : UplinkId) :
    scoreKey g b u / 262144 = g.val ∧ scoreKey g b u / 128 % 2048 = b.val ∧ scoreKey g b u % 128 = u.val := by
  unfold scoreKey
  omega

theorem scoreKey_injective {g g' : Group} {b b' : Bucket} {u u' : UplinkId}
    (same : scoreKey g b u = scoreKey g' b' u') : g = g' ∧ b = b' ∧ u = u' := by
  obtain ⟨hg, hb, hu⟩ := scoreKey_places g b u
  obtain ⟨hg', hb', hu'⟩ := scoreKey_places g' b' u'
  rw [same] at hg hb hu
  exact ⟨Fin.ext (hg.symm.trans hg'), Fin.ext (hb.symm.trans hb'), Fin.ext (hu.symm.trans hu')⟩

theorem scoreKey_surjective {k : Nat} (bound : k ≤ 1048575) :
    ∃ (g : Group) (b : Bucket) (u : UplinkId), scoreKey g b u = k := by
  refine ⟨⟨k / 262144, by omega⟩, ⟨k / 128 % 2048, by omega⟩, ⟨k % 128, by omega⟩, ?_⟩
  show (k / 262144 * 2048 + k / 128 % 2048) * 128 + k % 128 = k
  omega

/-- Settles O45: a key is a number written in three places, which give back its triple. -/
theorem everyKeyIsOneTriple : Obligations.EveryKeyIsOneTriple :=
  ⟨fun g b u => ⟨rfl, scoreKey_le g b u⟩, fun _ _ _ _ _ _ => scoreKey_injective, fun _ => scoreKey_surjective⟩

/-! ### Raw and weighted scores (R117 to R119) -/

/-- The raw score on exact numbers: no word cuts the square or the sum. -/
theorem rawScore_eq (seed : Half) (key : Nat) :
    rawScore seed key = ((key + seed.toNat) ^ 2 + key) % 65521 := by
  rw [sq]
  rfl

theorem rawScore_le (seed : Half) (key : Nat) : rawScore seed key ≤ 65520 :=
  Nat.le_of_lt_succ (Nat.mod_lt _ (by decide))

theorem rawScore_congr {seed seed' : Half} (same : seed.toNat % 65521 = seed'.toNat % 65521) (key : Nat) :
    rawScore seed key = rawScore seed' key := by
  have seeds : seed.toNat ≡ seed'.toNat [MOD 65521] := same
  rw [rawScore_eq, rawScore_eq]
  exact ((seeds.add_left key).pow 2).add_right key

theorem key_add_seed_le (seed : Half) (g : Group) (b : Bucket) (u : UplinkId) :
    scoreKey g b u + seed.toNat ≤ 1114110 :=
  calc scoreKey g b u + seed.toNat ≤ 1048575 + 65535 :=
        Nat.add_le_add (scoreKey_le g b u) (Nat.le_of_lt_succ seed.isLt)
    _ = 1114110 := rfl

theorem sq_add_key_le (seed : Half) (g : Group) (b : Bucket) (u : UplinkId) :
    (scoreKey g b u + seed.toNat) ^ 2 + scoreKey g b u ≤ 1241242140675 :=
  calc (scoreKey g b u + seed.toNat) ^ 2 + scoreKey g b u ≤ 1114110 ^ 2 + 1048575 :=
        Nat.add_le_add (Nat.pow_le_pow_left (key_add_seed_le seed g b u) 2) (scoreKey_le g b u)
    _ = 1241242140675 := by norm_num

theorem weightedScore_le (seed : Half) (g : Group) (b : Bucket) (pair : SnapshotPair) :
    weightedScore seed g b pair ≤ 982800 :=
  calc weightedScore seed g b pair ≤ 65520 * 15 :=
        Nat.mul_le_mul (rawScore_le seed _) (Nat.le_of_lt_succ pair.weight.isLt)
    _ = 982800 := rfl

/-- Each of the fourteen numbers between the modulus and 65,536 has a divisor of at most 19. -/
theorem prime_le_scoreModulus {n : Nat} (prime : n.Prime) (below : n < 65536) : n ≤ 65521 := by
  by_contra above
  have low : 65522 ≤ n := by omega
  interval_cases n <;> norm_num at prime

/-- Settles O46: a key has 20 bits, a seed 16 and a weight 4, and a raw score is a remainder. -/
theorem scoresStayInRange : Obligations.ScoresStayInRange := by
  refine ⟨fun seed seed' g b pair => ?_, by norm_num, fun n => prime_le_scoreModulus⟩
  exact ⟨rawScore_eq seed _, key_add_seed_le seed g b _, sq_add_key_le seed g b _, rawScore_le seed _,
    fun same => rawScore_congr same _, rfl, weightedScore_le seed g b pair⟩

/-! ### The entry of a bucket and the ranks of its candidates (R121, R122, R128) -/

section Ranks

variable {seed : Half} {g : Group} {b : Bucket} {snapshot old new : List SnapshotPair} {x y : SnapshotPair}
  {u v : UplinkId}

theorem eq_of_uplink_eq (ordered : (snapshot.map SnapshotPair.uplink).Pairwise (· < ·)) (hx : x ∈ snapshot)
    (hy : y ∈ snapshot) (same : x.uplink = y.uplink) : x = y :=
  List.inj_on_of_nodup_map (ordered.imp ne_of_lt) hx hy same

/-- A candidate that ranks first among some still ranks first among fewer. -/
theorem RanksFirst.of_subset (first : RanksFirst seed g b old x) (subset : new ⊆ old) (hx : x ∈ new) :
    RanksFirst seed g b new x :=
  ⟨hx, fun y hy => first.2 y (subset hy)⟩

/-- The entry of a bucket by the number of candidates; the backup of two or more ranks first among the others than the
primary (R121, R122). -/
theorem bucketEntry_cases (seed : Half) (g : Group) (b : Bucket)
    (ordered : (snapshot.map SnapshotPair.uplink).Pairwise (· < ·)) :
    (snapshot = [] ∧ bucketPrimary seed g b snapshot = none ∧ bucketBackup seed g b snapshot = none) ∨
    (∃ x, snapshot = [x] ∧ bucketPrimary seed g b snapshot = some x.uplink ∧
      bucketBackup seed g b snapshot = none) ∨
    (∃ x y, RanksFirst seed g b snapshot x ∧ RanksFirst seed g b (snapshot.filter (· ≠ x)) y ∧
      bucketPrimary seed g b snapshot = some x.uplink ∧ bucketBackup seed g b snapshot = some y.uplink) := by
  unfold bucketPrimary bucketBackup unitPrimary unitBackup
  rcases scoreRest_holds (seed := seed) (g := g) (b := b) ordered with
    ⟨empty, leader, runnerUp⟩ | ⟨x, one, leader, runnerUp⟩ | ⟨x, y, first, hy, other, below, leader, runnerUp⟩
  · exact .inl ⟨empty, by rw [leader]; rfl, by rw [runnerUp]; rfl⟩
  · exact .inr (.inl ⟨x, one, by rw [leader]; rfl, by rw [runnerUp]; rfl⟩)
  · have second : RanksFirst seed g b (snapshot.filter (· ≠ x)) y := by
      simpa [RanksFirst, hy, other] using below
    exact .inr (.inr ⟨x, y, first, second, by rw [leader]; rfl, by rw [runnerUp]; rfl⟩)

/-- Where there is a candidate, one ranks first. -/
theorem exists_ranksFirst (seed : Half) (g : Group) (b : Bucket)
    (ordered : (snapshot.map SnapshotPair.uplink).Pairwise (· < ·)) (nonempty : snapshot ≠ []) :
    ∃ top, RanksFirst seed g b snapshot top := by
  rcases bucketEntry_cases seed g b ordered with ⟨empty, -⟩ | ⟨x, one, -⟩ | ⟨x, -, first, -⟩
  · exact absurd empty nonempty
  · exact ⟨x, by simp [RanksFirst, one]⟩
  · exact ⟨x, first⟩

/-- The primary is the candidate that ranks first. -/
theorem bucketPrimary_eq_some_iff (ordered : (snapshot.map SnapshotPair.uplink).Pairwise (· < ·)) :
    bucketPrimary seed g b snapshot = some u ↔ ∃ x, RanksFirst seed g b snapshot x ∧ x.uplink = u := by
  constructor
  · intro primary
    have nonempty : snapshot ≠ [] := by rintro rfl; cases primary
    obtain ⟨x, first⟩ := exists_ranksFirst seed g b ordered nonempty
    exact ⟨x, first, Option.some.inj ((bucketPrimary_of_first ordered first).symm.trans primary)⟩
  · rintro ⟨x, first, rfl⟩
    exact bucketPrimary_of_first ordered first

/-- The backup ranks first among the candidates other than the one that ranks first. -/
theorem ranksFirst_of_bucketBackup (ordered : (snapshot.map SnapshotPair.uplink).Pairwise (· < ·))
    (primary : bucketPrimary seed g b snapshot = some u)
    (backup : bucketBackup seed g b snapshot = some v) :
    ∃ x y, x.uplink = u ∧ y.uplink = v ∧ RanksFirst seed g b (snapshot.filter (· ≠ x)) y := by
  rcases bucketEntry_cases seed g b ordered with ⟨-, -, no⟩ | ⟨x, -, -, no⟩ | ⟨x, y, -, second, hx, hy⟩
  · simp [no] at backup
  · simp [no] at backup
  · exact ⟨x, y, Option.some.inj (hx.symm.trans primary), Option.some.inj (hy.symm.trans backup), second⟩

/-- A primary that is not removed stays (R128). -/
theorem bucketPrimary_stays (ordered : (old.map SnapshotPair.uplink).Pairwise (· < ·)) (fewer : new.Sublist old)
    (primary : bucketPrimary seed g b old = some u) (remains : u ∈ new.map SnapshotPair.uplink) :
    bucketPrimary seed g b new = some u := by
  obtain ⟨x, first, rfl⟩ := (bucketPrimary_eq_some_iff ordered).mp primary
  obtain ⟨x', hx', same⟩ := List.mem_map.mp remains
  obtain rfl := eq_of_uplink_eq ordered (fewer.subset hx') first.1 same
  exact bucketPrimary_of_first (ordered.sublist (fewer.map _)) (first.of_subset fewer.subset hx')

/-- Where the primary is removed and the backup is not, the backup follows it. -/
theorem bucketPrimary_of_backup (ordered : (old.map SnapshotPair.uplink).Pairwise (· < ·)) (fewer : new.Sublist old)
    (primary : bucketPrimary seed g b old = some u) (left : u ∉ new.map SnapshotPair.uplink)
    (backup : bucketBackup seed g b old = some v) (remains : v ∈ new.map SnapshotPair.uplink) :
    bucketPrimary seed g b new = some v := by
  obtain ⟨x, y, rfl, rfl, second⟩ := ranksFirst_of_bucketBackup ordered primary backup
  have others : new ⊆ old.filter (· ≠ x) := fun z hz =>
    List.mem_filter.mpr ⟨fewer.subset hz, decide_eq_true fun same => left (same ▸ List.mem_map_of_mem hz)⟩
  obtain ⟨y', hy', same⟩ := List.mem_map.mp remains
  obtain rfl := eq_of_uplink_eq ordered (fewer.subset hy') (List.mem_of_mem_filter second.1) same
  exact bucketPrimary_of_first (ordered.sublist (fewer.map _)) (second.of_subset others hy')

end Ranks

/-- Settles O47: the three cases of what the score unit holds at the end of a snapshot. -/
theorem entryShapeFollowsSnapshot : Obligations.EntryShapeFollowsSnapshot := by
  intro seed g b snapshot ordered
  refine ⟨?_, ?_, fun two => ?_⟩
  · rintro rfl
    exact ⟨rfl, rfl⟩
  · rintro pair rfl
    exact ⟨rfl, rfl⟩
  · rcases bucketEntry_cases seed g b ordered with ⟨rfl, -⟩ | ⟨x, rfl, -⟩ | ⟨x, y, first, second, primary, backup⟩
    · simp at two
    · simp at two
    · obtain ⟨⟨hy, other⟩, below⟩ : (y ∈ snapshot ∧ y ≠ x) ∧
          ∀ z ∈ snapshot, z ≠ x → z ≠ y → RanksAbove seed g b y z := by
        simpa [RanksFirst] using second
      exact ⟨x, y, first, hy, other, below, primary, backup,
        fun same => other (eq_of_uplink_eq ordered first.1 hy same).symm⟩

/-- Settles O49: removal leaves the ranks of those that remain, so that whoever ranked first among them takes the
bucket. -/
theorem removalKeepsPrimaries : Obligations.RemovalKeepsPrimaries := by
  intro seed g b old new u ordered fewer primary
  refine ⟨bucketPrimary_stays ordered fewer primary, fun _ nonempty => ?_, fun left v backup remains =>
    bucketPrimary_of_backup ordered fewer primary left backup remains⟩
  have orderedNew := ordered.sublist (fewer.map SnapshotPair.uplink)
  obtain ⟨top, first⟩ := exists_ranksFirst seed g b orderedNew nonempty
  exact ⟨top, first, bucketPrimary_of_first orderedNew first⟩

end Sys2Proof.Machine
end

section
/-! The inspection port and the event unit (chapter 10): the order of the checks of R165, what a taken command leaves,
and the flags, the mask and the interrupt that the event commands move (R170, R171, R176, R182). -/

namespace Sys2Proof.Machine

/-! ### The checks of R165, in their order -/

@[simp] theorem commandStatus_loading (bad off allowed : Bool) : commandStatus .loading bad off allowed = .busy := rfl

section Checks
variable {station : StationState} (awake : station ≠ .loading)
include awake

theorem commandStatus_badArgument (off allowed : Bool) : commandStatus station true off allowed = .badArgument := by
  simp [commandStatus, awake]

theorem commandStatus_notConfigured (allowed : Bool) : commandStatus station false true allowed = .notConfigured := by
  simp [commandStatus, awake]

theorem commandStatus_wrongState : commandStatus station false false false = .wrongState := by
  simp [commandStatus, awake]

theorem commandStatus_accepted : commandStatus station false false true = .accepted := by
  simp [commandStatus, awake]

end Checks

/-- The checks after a bad argument are not made, so that what they would find does not count. -/
theorem commandStatus_congr {station : StationState} {bad off off' allowed allowed' : Bool}
    (same : bad = false → off = off' ∧ allowed = allowed') :
    commandStatus station bad off allowed = commandStatus station bad off' allowed' := by
  cases bad with
  | true => rfl
  | false =>
    obtain ⟨rfl, rfl⟩ := same rfl
    rfl

/-! ### Taking a command -/

theorem takeCommand_refused {s : State} {status : CommandStatus} (opened : s.spi = .opened)
    (refused : status ≠ .accepted) (data : List Byte) (effect : State → State) :
    takeCommand status data effect s = { s with spi := .taken (statusByte status) [] } := by
  rw [takeCommand, if_pos opened, if_neg refused]

theorem takeCommand_accepted {s : State} (opened : s.spi = .opened) (data : List Byte) (effect : State → State) :
    takeCommand .accepted data effect s = effect { s with spi := .taken 0x5A data } := by
  rw [takeCommand, if_pos opened, if_pos rfl]
  rfl

/-- A steering command that no check holds back, in an open transaction, does what it does. -/
theorem takeSteering_accepted {s : State} (opened : s.spi = .opened) (awake : s.control.station ≠ .loading)
    (effect : State → State) :
    takeSteering false false true effect s = effect { s with spi := .taken 0x5A [] } := by
  rw [takeSteering, commandStatus_accepted awake, takeCommand_accepted opened]

/-! ### What the checks find, and what the effects leave -/

/-- An argument byte in range names the port of its number. -/
theorem getD_ports_portOfByte {port : Byte} (inRange : decide (port.toNat > 7) = false) (s : State) :
    s.ports.toList.getD port.toNat Port.reset = s.ports[portOfByte port] := by
  have small : port.toNat < 8 := by simpa [Nat.lt_succ_iff] using inRange
  simp [portOfByte, Nat.mod_eq_of_lt small, small, List.getD_eq_getElem?_getD]

theorem mayGoQuiet_eq (station : StationState) :
    mayGoQuiet station = (station == .joining || station == .operating) := by
  cases station <;> rfl

/-- The bank argument of READ ENTRY is 0x00 or 0x01 (R179). -/
theorem bankBad_eq (bank : Byte) : decide (2 ≤ bank.toNat) = (bank != 0x00 && bank != 0x01) := by
  rw [Bool.eq_iff_iff]
  simp only [Bool.and_eq_true, bne_iff_ne, decide_eq_true_eq]
  bv_omega

@[simp] theorem drainPort_spi (p : PortNo) (s : State) : (drainPort p s).spi = s.spi := by
  unfold drainPort
  split
  · rfl
  · exact movePort_spi ..

@[simp] theorem restartStation_spi (s : State) : (restartStation s).spi = s.spi := by
  unfold restartStation
  cases s.control.station with
  | joining | operating => exact enterQuiet_spi ..
  | quiet =>
    dsimp only
    split_ifs <;> rfl
  | muted | configFault | loading => rfl

/-! ### Every inspection command -/

/-- The status that the checks of R165 give a command. -/
def checkedStatus (c : Instr) (s : State) : CommandStatus :=
  commandStatus s.control.station (argumentBad c) (namesOffPort s c) (allowedNow s c)

/-- `exec` takes the command with the status of its checks, and the effect of the command leaves the captured reply. -/
def TakenByChecks (c : Instr) (s : State) : Prop :=
  ∃ (data : List Byte) (effect : State → State), (∀ t, (effect t).spi = t.spi) ∧
    exec c s = .next (takeCommand (checkedStatus c s) data effect s)

/-- A command on a port: what the checks find at the port that its byte names counts only where the byte is in range. -/
theorem TakenByChecks.ofPort {c : Instr} {s : State} {port : Byte} {off allowed : Bool} {effect : State → State}
    (bad : argumentBad c = decide (port.toNat > 7))
    (same : s.ports.toList.getD port.toNat Port.reset = s.ports[portOfByte port] →
      off = namesOffPort s c ∧ allowed = allowedNow s c)
    (leaves : ∀ t, (effect t).spi = t.spi)
    (taken : exec c s = .next (takeSteering (decide (port.toNat > 7)) off allowed effect s)) : TakenByChecks c s := by
  refine ⟨[], effect, leaves, ?_⟩
  rw [taken, takeSteering, checkedStatus, bad]
  rw [commandStatus_congr fun inRange => same (getD_ports_portOfByte inRange s)]

theorem takenByChecks_of_isInspection {c : Instr} (inspection : isInspection c = true) (s : State) :
    TakenByChecks c s := by
  cases c with
  | unknownCommand | status | readUplink | readPeer | readCandidate | readCounters | readEvents =>
    exact ⟨_, id, fun _ => rfl, rfl⟩
  | readEntry group bucket bank =>
    refine ⟨mapReply s (groupOfByte group) (bucketOfHalf bucket) bank, id, fun _ => rfl, ?_⟩
    rw [checkedStatus, argumentBad, ← bankBad_eq]
    rfl
  | clearEvents mask =>
    exact ⟨[], fun t => { t with events := clearFlags (maskOfHalf mask) t.events }, fun _ => rfl, rfl⟩
  | setMask mask =>
    exact ⟨[], fun t => { t with events := replaceMask (maskOfHalf mask) t.events }, fun _ => rfl, rfl⟩
  | drain port =>
    exact .ofPort rfl (fun named => ⟨by rw [namesOffPort, named], rfl⟩) (drainPort_spi (portOfByte port)) rfl
  | undrain port =>
    exact .ofPort rfl (fun named => ⟨by rw [namesOffPort, named], by rw [allowedNow, named]⟩)
      (fun _ => movePort_spi ..) rfl
  | quiet =>
    refine ⟨[], enterQuiet false, enterQuiet_spi false, ?_⟩
    rw [checkedStatus, allowedNow, ← mayGoQuiet_eq]
    rfl
  | wake => exact ⟨[], wakeUp, wakeUp_spi, rfl⟩
  | restart => exact ⟨[], restartStation, restartStation_spi, rfl⟩
  | _ => exact absurd inspection Bool.false_ne_true

section Inspection
variable {c : Instr} {s : State} (inspection : isInspection c = true) (opened : s.spi = .opened)
include inspection opened

theorem exec_refused {status : CommandStatus} (checked : checkedStatus c s = status) (refused : status ≠ .accepted) :
    exec c s = .next { s with spi := .taken (statusByte status) [] } := by
  obtain ⟨data, effect, -, taken⟩ := takenByChecks_of_isInspection inspection s
  rw [taken, checked, takeCommand_refused opened refused]

theorem exec_accepted (checked : checkedStatus c s = .accepted) :
    ∃ t data, exec c s = .next t ∧ t.spi = .taken 0x5A data := by
  obtain ⟨data, effect, leaves, taken⟩ := takenByChecks_of_isInspection inspection s
  rw [checked, takeCommand_accepted opened] at taken
  exact ⟨_, data, taken, leaves _⟩

end Inspection

/-- Settles O13: every inspection command is taken with the status of its checks, and `commandStatus` makes them in the
order of R165. -/
theorem checksDecideStatus : Obligations.ChecksDecideStatus := by
  intro c s inspection opened
  refine ⟨fun loading => ?_, fun awake bad => ?_, fun awake good off => ?_, fun awake good configured refused => ?_,
    fun awake good configured allowed => ?_⟩
  · refine exec_refused inspection opened (status := .busy) ?_ (by decide)
    rw [checkedStatus, loading, commandStatus_loading]
  · refine exec_refused inspection opened (status := .badArgument) ?_ (by decide)
    rw [checkedStatus, bad, commandStatus_badArgument awake]
  · refine exec_refused inspection opened (status := .notConfigured) ?_ (by decide)
    rw [checkedStatus, good, off, commandStatus_notConfigured awake]
  · refine exec_refused inspection opened (status := .wrongState) ?_ (by decide)
    rw [checkedStatus, good, configured, refused, commandStatus_wrongState awake]
  · refine exec_accepted inspection opened ?_
    rw [checkedStatus, good, configured, allowed, commandStatus_accepted awake]

/-! ### The flags of the event unit (R170, section 10.4) -/

theorem eventNumber_lt (k : EventKind) : eventNumber k < 12 := by cases k <;> decide

/-- Each of the twelve flags is that of a kind. -/
theorem exists_eventNumber_eq {n : Nat} (small : n < 12) : ∃ k, eventNumber k = n := by
  have all : ∀ i : Fin 12, ∃ k ∈ eventKinds, eventNumber k = i.val := by decide
  obtain ⟨k, -, number⟩ := all ⟨n, small⟩
  exact ⟨k, number⟩

theorem eq_zero_iff_none_pending (flags : BitVec 12) : flags = 0 ↔ ∀ k, isPending flags k = false := by
  constructor
  · rintro rfl k
    exact BitVec.getLsbD_zero
  · intro clear
    refine BitVec.eq_of_getLsbD_eq fun n small => ?_
    obtain ⟨k, rfl⟩ := exists_eventNumber_eq small
    exact (clear k).trans BitVec.getLsbD_zero.symm

/-- A flag after a clearing: as before, but cleared where the mask pair names it. -/
theorem isPending_clearFlags (mask : Half) (e : EventUnit) (k : EventKind) :
    isPending (clearFlags (maskOfHalf mask) e).pending k =
      (isPending e.pending k && !mask.getLsbD (eventNumber k)) := by
  simp [isPending, clearFlags, agreeEvents, maskOfHalf, eventNumber_lt k]

@[simp] theorem clearFlags_mask (named : BitVec 12) (e : EventUnit) : (clearFlags named e).mask = e.mask := rfl

/-- The first-event record goes with the last flag (R170). -/
theorem clearFlags_record (named : BitVec 12) (e : EventUnit) :
    (clearFlags named e).record = if (clearFlags named e).pending = 0 then none else e.record := rfl

theorem clearFlags_record_of_none_pending {named : BitVec 12} {e : EventUnit}
    (clear : ∀ k, isPending (clearFlags named e).pending k = false) : (clearFlags named e).record = none := by
  rw [clearFlags_record, if_pos ((eq_zero_iff_none_pending _).mpr clear)]

theorem clearFlags_record_of_pending {named : BitVec 12} {e : EventUnit} {k : EventKind}
    (pending : isPending (clearFlags named e).pending k = true) : (clearFlags named e).record = e.record := by
  refine (clearFlags_record named e).trans (if_neg fun zero => ?_)
  simp [(eq_zero_iff_none_pending _).mp zero k] at pending

theorem clearFlags_agrees (named : BitVec 12) (e : EventUnit) : Agrees (clearFlags named e) := agrees_agreeEvents _

theorem replaceMask_agrees (mask : BitVec 12) (e : EventUnit) : Agrees (replaceMask mask e) := agrees_agreeEvents _

/-! ### The pin INT_N (R182) -/

theorem interruptPin_asserted {e : EventUnit} (asserted : e.interrupt = true) : interruptPin e = .drivenLow :=
  if_pos asserted

theorem interruptPin_released {e : EventUnit} (released : e.interrupt = false) : interruptPin e = .released := by
  rw [interruptPin, released]
  rfl

/-! ### CLEAR EVENTS and SET MASK -/

section EventCommands
variable {s : State} (opened : s.spi = .opened) (awake : s.control.station ≠ .loading)
include opened awake

theorem exec_clearEvents (mask : Half) :
    exec (.clearEvents mask) s =
      .next { s with spi := .taken 0x5A [], events := clearFlags (maskOfHalf mask) s.events } := by
  rw [exec, execClearEvents, takeSteering_accepted opened awake]

theorem exec_setMask (mask : Half) :
    exec (.setMask mask) s =
      .next { s with spi := .taken 0x5A [], events := replaceMask (maskOfHalf mask) s.events } := by
  rw [exec, execSetMask, takeSteering_accepted opened awake]

end EventCommands

/-- Settles O18: each command replaces the event unit by one that `agreeEvents` has brought to agree, and the kinds
reach all twelve flags, so that no pending kind is no pending flag. -/
theorem eventCommandsAct : Obligations.EventCommandsAct := by
  refine ⟨fun e => ⟨interruptPin_asserted, interruptPin_released⟩, fun mask s opened awake => ⟨?_, ?_, rfl⟩⟩
  · refine ⟨_, exec_clearEvents opened awake mask, rfl, isPending_clearFlags mask s.events, clearFlags_mask _ _,
      clearFlags_record_of_none_pending, ?_, clearFlags_agrees _ _⟩
    rintro ⟨k, pending⟩
    exact clearFlags_record_of_pending pending
  · exact ⟨_, exec_setMask opened awake mask, rfl, rfl, rfl, rfl, replaceMask_agrees _ _⟩

end Sys2Proof.Machine
end

section
/-! What the moves of a port monitor keep of it (R15 to R26), for the invariants of steps. -/

namespace Sys2Proof.Machine

/-! ### What the events at one port keep of it (R15 to R29, R41) -/

section PortEvents
variable {r : Nat} {p : Port}

theorem PortOk.enabled_of_on (ok : PortOk r p) (on : p.condition ≠ .off) : p.enabled = true := by
  obtain ⟨-, -, -, -, -, disabled⟩ := ok
  by_contra off
  exact on (disabled (by simpa using off)).1

/-- A port in use stays legal in a condition that runs no timer. -/
theorem PortOk.settled (ok : PortOk r p) (on : p.condition ≠ .off) {c : Condition} (h : c ≠ .holding) (h' : c ≠ .ramping)
    (h'' : c ≠ .off) : PortOk r (settledPort c p) := by
  have enabled := ok.enabled_of_on on
  obtain ⟨-, -, -, -, weight, -⟩ := ok
  refine ⟨by simp [settledPort, isRunning, h], by simp [settledPort, isRunning, h'], fun ramping => absurd ramping h',
    fun _ => rfl, fun _ => ⟨(weight enabled).1, h''⟩, fun off => ?_⟩
  exact absurd enabled (by simpa [settledPort] using off)

/-- What a cadence window and the light state hold is free at an enabled port. -/
theorem PortOk.relit (ok : PortOk r p) (enabled : p.enabled = true) (after : LightState) (flickers : Half)
    (los seen : Bool) :
    PortOk r { p with light := after, flickers := flickers, losSeen := los, transitionSeen := seen } := by
  obtain ⟨restore, ramp, step, still, weight, -⟩ := ok
  exact ⟨restore, ramp, step, still, weight, fun off => by simp [enabled] at off⟩

theorem PortOk.sampled (ok : PortOk r p) (los seen : Bool) :
    PortOk r { p with losSeen := los, transitionSeen := seen } := ok

theorem PortOk.loseLight (ok : PortOk r p) : PortOk r (loseLight p) := by
  unfold Machine.loseLight
  split
  case h_5 | h_6 | h_7 => exact ok
  all_goals exact ok.settled (by simp [*]) (by decide) (by decide) (by decide)

theorem PortOk.restoring (ok : PortOk r p) (holding : p.condition = .holding) (left : Nat) :
    PortOk r { p with restore := .running left } := by
  obtain ⟨-, ramp, step, still, weight, disabled⟩ := ok
  exact ⟨by simp [isRunning, holding], ramp, step, still, weight, disabled⟩

theorem PortOk.judgedCondition (params : Params) (ok : PortOk r p) : PortOk r (judgedCondition params p) := by
  unfold Machine.judgedCondition
  split_ifs with lost found
  · exact ok.loseLight
  · have on : p.condition ≠ .off := by simp [found.1]
    have enabled := ok.enabled_of_on on
    obtain ⟨-, ramp, -, still, weight, -⟩ := ok
    have step : p.step = 0 := still (by simp [found.1])
    simp_all [PortOk, restoreTime, isRunning]
  · exact ok

theorem loseLight_enabled (p : Port) : (loseLight p).enabled = p.enabled := by
  unfold Machine.loseLight
  split <;> rfl

theorem judgedCondition_enabled (params : Params) (p : Port) : (judgedCondition params p).enabled = p.enabled := by
  unfold Machine.judgedCondition
  split_ifs
  · exact loseLight_enabled p
  · rfl
  · rfl

theorem PortOk.judged (params : Params) (los : Bool) (ok : PortOk r p) : PortOk r (judgePort params los p) := by
  unfold judgePort
  split
  case isTrue enabled =>
    exact (ok.judgedCondition params).relit ((judgedCondition_enabled params p).trans enabled) _ _ _ _
  case isFalse => exact ok

/-- A port out of use comes into service (R23, R29). -/
theorem PortOk.beginService {params : Params} (ok : PortOk params.rampSteps.toNat p) (on : p.condition ≠ .off) :
    PortOk params.rampSteps.toNat (beginService params p) := by
  unfold Machine.beginService
  split_ifs with short
  · exact ok.settled on (by decide) (by decide) (by decide)
  · have enabled := ok.enabled_of_on on
    obtain ⟨-, -, -, -, weight, -⟩ := ok
    refine ⟨by simp [settledPort, isRunning], by simp [settledPort, isRunning, rampTime],
      fun _ => ⟨Nat.le_refl 1, Nat.lt_of_not_le short⟩, fun still => absurd rfl still,
      fun _ => ⟨(weight enabled).1, fun off => Condition.noConfusion off⟩, fun off => ?_⟩
    exact absurd enabled (by simpa [settledPort] using off)

theorem PortOk.undrained {params : Params} (ok : PortOk params.rampSteps.toNat p) (on : p.condition ≠ .off) :
    PortOk params.rampSteps.toNat (undrainedPort params p) := by
  unfold undrainedPort
  split_ifs
  · exact ok.settled on (by decide) (by decide) (by decide)
  · exact ok.beginService on

theorem PortOk.stepped {params : Params} (ok : PortOk params.rampSteps.toNat p) (ramping : p.condition = .ramping) :
    PortOk params.rampSteps.toNat (steppedPort params p) := by
  unfold steppedPort
  split_ifs with last
  · exact ok.settled (by simp [ramping]) (by decide) (by decide) (by decide)
  · obtain ⟨restore, -, -, -, weight, disabled⟩ := ok
    refine ⟨restore, by simp [isRunning, rampTime, ramping], fun _ => ⟨?_, ?_⟩, fun h => absurd ramping h, weight,
      disabled⟩
    · show 1 ≤ p.step + 1
      omega
    · show p.step + 1 < params.rampSteps.toNat
      omega

/-- What a crossing can do to a port (R41). -/
theorem crossPort_cases (params : Params) (action : Action) (p : Port) :
    crossPort params action p = p ∨
    (p.condition = .holding ∧ crossPort params action p = { p with restore := restoreTime params }) ∨
    (p.condition ≠ .off ∧ ∃ c, (c = .degraded ∨ c = .dark) ∧ crossPort params action p = settledPort c p) := by
  unfold crossPort
  cases action with
  | report => exact .inl rfl
  | degrade | dark => cases h : p.condition <;> simp

theorem PortOk.crossed (params : Params) (action : Action) (ok : PortOk r p) :
    PortOk r (crossPort params action p) := by
  rcases crossPort_cases params action p with h | ⟨holding, h⟩ | ⟨on, c, rfl | rfl, h⟩ <;> rw [h]
  · exact ok
  · exact ok.restoring holding _
  · exact ok.settled on (by decide) (by decide) (by decide)
  · exact ok.settled on (by decide) (by decide) (by decide)

end PortEvents
end Sys2Proof.Machine
end

section
/-! What a step can do. `Event` names the events of which every command is made, each with what the command has checked
by then; `exec_answers` takes every command apart into them once, so that an invariant of steps is one case per event. -/

namespace Sys2Proof.Machine

/-! ### What the events at one peer entry keep of it (R91 to R101) -/

section PeerEvents
variable {p : Peer}

theorem PeerOk.joined (n : Notice) (params : Params) : PeerOk (joinedPeer n params p) := by
  cases h : joinEqual n params <;> simp [PeerOk, joinedPeer, silenceTime, isRunning, h]

theorem PeerOk.reported {n : Notice} {params : Params} (installs : reportInstalls n params p = true) {count : Nat}
    (small : count ≤ 2) : PeerOk { reportedPeer n params p with divergence := count } := by
  simp [PeerOk, reportedPeer, silenceTime, isRunning, installs, small]

theorem PeerOk.refused {n : Notice} {params : Params} (ok : PeerOk p) (refuses : reportInstalls n params p = false) :
    PeerOk (reportedPeer n params p) := by
  obtain ⟨-, -, -, -, -, zero⟩ := ok
  have count : (reportedPeer n params p).divergence = 0 := by
    by_cases present : p.state = .present
    · simp [reportedPeer, refuses, present]
    · simpa [reportedPeer, refuses, present] using zero present
  have sourced : (reportedPeer n params p).source.isSome = true := by
    simp only [reportedPeer, refuses]
    split_ifs <;> simp_all
  simp [PeerOk, count, sourced]
  simp [reportedPeer, silenceTime, isRunning, refuses]

theorem PeerOk.solicited (n : Notice) (params : Params) (ok : PeerOk p) : PeerOk (solicitedPeer n params p) := by
  obtain ⟨silence, rest⟩ := ok
  refine ⟨?_, rest⟩
  by_cases heard : p.state = .present ∨ p.state = .mismatch
  · simp [solicitedPeer, acceptedPeer, heard, silenceTime, isRunning]
  · simpa [solicitedPeer, acceptedPeer, heard] using silence

theorem PeerOk.absent (p : Peer) : PeerOk (absentPeer p) := by
  simp [PeerOk, absentPeer, isRunning]

theorem PeerOk.silent (p : Peer) : PeerOk (silentPeer p) := by
  simp [PeerOk, silentPeer, isRunning]

end PeerEvents

/-! ### The events -/

/-- What can be seen of a station that has left LOADING and CONFIG FAULT: a block that runs only since then. -/
def Started (s : State) : Prop :=
  receiveOn s.control.station = true ∨ isRunning s.cadenceTimer = true ∨ isRunning s.errorTimer = true ∨
  isRunning s.notices.announce = true ∨ s.bus.inFlight ≠ none ∨ (∃ p : PortNo, s.ports[p].condition ≠ .off) ∨
  (∃ i : StationNo, isHeard s.peers[i] = true) ∨ s.engine.run ≠ .idle

/-- The events of which commands are made, outside the end of loading. -/
inductive Event : State → State → Prop where
  /-- Pins, the loader, the inspection transaction, the model's own counter. -/
  | aside (s : State) (n : Nat) (pins : Pins) (loader : Loader) (spi : Transaction) :
    Event s { s with freeCount := n, pins := pins, loader := loader, spi := spi }
  | counts (s : State) (c : Counter) (n : Nat) (on : Started s) : Event s (bumpTimes c n s)
  | raises (s : State) (rs : List Raise) : Event s (raiseEvents rs s)
  | clears (s : State) (named : BitVec 12) : Event s { s with events := clearFlags named s.events }
  | masks (s : State) (mask : BitVec 12) : Event s { s with events := replaceMask mask s.events }
  | demands (s : State) (d : Demand) (h : d ≠ .leave) : Event s (demand d s)
  | times (s : State) (n : Notices) (on : Started s ∨ n = { s.notices with holdoff := .stopped }) :
    Event s { s with notices := n }
  | windows (s : State) (cadence error : Timer) (on : Started s) :
    Event s { s with cadenceTimer := cadence, errorTimer := error }
  /-- A clean count stays, returns to 0, or goes on while it is below Nc at a DEGRADED port. -/
  | grades (s : State) (graders : Vector Grader 8) (on : Started s)
    (h : ∀ p : PortNo, graders[p].clean = s.graders[p].clean ∨ graders[p].clean = 0 ∨
      (s.ports[p].condition = .degraded ∧ graders[p].clean < s.params.cleanWindows.toNat)) :
    Event s { s with graders := graders }
  /-- A port notes what its cadence window sees. -/
  | samples (s : State) (p : PortNo) (los seen : Bool) (on : Started s) :
    Event s { s with ports := s.ports.set p { s.ports[p] with losSeen := los, transitionSeen := seen } }
  | portsMove (s : State) (ports : Vector Port 8) (rs : List Raise) (on : Started s)
    (h : ∀ p : PortNo, PortOk s.params.rampSteps.toNat s.ports[p] → PortOk s.params.rampSteps.toNat ports[p]) :
    Event s (movePorts ports rs s)
  | peerMoves (s : State) (i : StationNo) (p : Peer) (ds : List Demand) (rs : List Raise) (on : Started s)
    (other : i ≠ s.control.number ∨ s.peers[i].state ≠ .localEntry) (still : p.state ≠ .localEntry)
    (h : PeerOk s.peers[i] → PeerOk p) (hd : ∀ d ∈ ds, d ≠ .leave) : Event s (movePeer i p ds rs s)
  /-- A peer entry notes a notice that leaves its state and its report. -/
  | peerNotes (s : State) (i : StationNo) (p : Peer) (on : Started s) (same : p.state = s.peers[i].state)
    (report : p.report = s.peers[i].report) (h : PeerOk s.peers[i] → PeerOk p) :
    Event s { s with peers := s.peers.set i p }
  /-- Cells pass the clock recovery and the receiver, and the recovery stays in its state. -/
  | hears (s : State) (boundary : Int) (missed : Nat) (receiver : Receiver)
    (h : missed = s.bus.missed ∨ (s.bus.recovery = .track ∧ missed ≤ 1)) :
    Event s { s with bus := { s.bus with boundary := boundary, missed := missed, receiver := receiver } }
  | lineBusy (s : State) (boundary : Int) (receiver : Receiver) (owed : Option Backoff)
    (on : receiveOn s.control.station = true) :
    Event s { s with bus := { s.bus with
      recovery := .track, boundary := boundary, missed := 0, receiver := receiver, line := .busy, backoff := owed } }
  | lineIdle (s : State) (on : receiveOn s.control.station = true) : Event s { s with bus := lineGoesIdle s.bus }
  | idlePasses (s : State) (cells : Nat) : Event s (passIdle cells s)
  | starts (s : State) (place : Nat) (e : QueueEntry) (head : s.bus.queue[place]? = some e)
    (may : mayStart e s = true) : Event s (beginAttempt place e s)
  /-- An attempt ends, and its notice is sent, given up or dropped. -/
  | ends (s : State) (f : InFlight) (owed : Option Backoff) (flies : s.bus.inFlight = some f)
    (h : f.final = true ∨ ¬ (f.entry.kind = .leave ∧ s.control.restartPending = true)) :
    Event s { s with bus := { s.bus with driver := .released, inFlight := none, backoff := owed } }
  /-- An attempt ends, and its notice returns to the queue. -/
  | returns (s : State) (f : InFlight) (owed : Option Backoff) (flies : s.bus.inFlight = some f)
    (again : f.entry.attempts + 1 < 8) (h : f.final = false) :
    Event s { s with bus := { s.bus with
      driver := .released, inFlight := none, backoff := owed, queue := returnToQueue f s.bus.queue } }
  /-- A clash takes the station off the bus (R13). -/
  | mutes (s : State) (settle : Timer) (dirty : Vector Bool 4)
    (h : (s.control.station = .joining ∧ settle = .stopped) ∨
      (settle = s.control.settle ∧ (s.control.station = .operating ∨
        (s.control.station = .quiet ∧ s.control.restartPending = false)))) :
    Event s (search { s with
      control := { s.control with station := .muted, settle := settle }
      bus := cutQueue s.bus
      table := { s.table with dirty := dirty } })
  | quiets (s : State) (restart : Bool) (may : mayGoQuiet s.control.station = true) : Event s (enterQuiet restart s)
  | wakes (s : State) (quiet : s.control.station = .quiet) (none : s.control.restartPending = false) :
    Event s (wakeUp s)
  /-- A restart waits for the LEAVE that remains (R14). -/
  | restartWaits (s : State) (quiet : s.control.station = .quiet) (remains : leaveRemains s.bus = true) :
    Event s { s with control := { s.control with restartPending := true } }
  | settles (s : State) (joining : s.control.station = .joining) :
    Event s (search (markAllDirty
      { s with control := { s.control with station := .operating, settle := .stopped } }))
  | resets (s : State) : Event s (restartReset s)
  | powersOn (s : State) : Event s (powerOnReset s)
  | stores (s : State) (g : Group) (k : Bool) (b : Bucket) (w : MapWord) (on : Started s) :
    Event s { s with map := storeWord g k b w s.map }
  | holds (s : State) (g : Group) (b : Bucket) (runs : s.engine.run = .running g b) : Event s (writeHeld g b s)
  | fails (s : State) (g : Group) (b : Bucket) (runs : s.engine.run = .running g b) : Event s (writeFailed g s)
  | parityFails (s : State) (g : Group) (on : servesLookups s.control.station = true) : Event s (parityFailed g s)
  | looksUp (s : State) (l : LookupPort) (h : LookupOk s → LookupOk { s with lookup := l }) :
    Event s { s with lookup := l }

/-- Events one after another. -/
abbrev Events : State → State → Prop := Relation.ReflTransGen Event

theorem Event.one {s t : State} (e : Event s t) : Events s t := .single e

theorem Started.of_inFlight {s : State} {f : InFlight} (flies : s.bus.inFlight = some f) : Started s := by
  simp [Started, flies]

theorem Started.of_port {s : State} {p : PortNo} (on : s.ports[p].condition ≠ .off) : Started s :=
  .inr (.inr (.inr (.inr (.inr (.inl ⟨p, on⟩)))))

theorem Started.of_run {s : State} {g : Group} {b : Bucket} (runs : s.engine.run = .running g b) : Started s := by
  simp [Started, runs]

theorem receiveOn_of_servesLookups {station : StationState} (serves : servesLookups station = true) :
    receiveOn station = true := by
  revert serves
  cases station <;> decide

theorem Events.counted {s : State} (on : Started s) (c : Counter) : Events s (bump c s) :=
  (Event.counts s c 1 on).one

end Sys2Proof.Machine
end

section
/-! Every operation of the model that several commands share, taken apart into events: notices and frames. -/

namespace Sys2Proof.Machine

/-! ### Notices and frames -/

theorem clash_happens (s : State) : Events s (clash s) := by
  unfold clash
  split
  case h_1 joining =>
    exact (Event.raises s _).one.tail (.mutes _ _ _ (.inl ⟨joining, rfl⟩))
  case h_2 operating =>
    exact (Event.raises s _).one.tail (.mutes _ _ _ (.inr ⟨rfl, .inl operating⟩))
  case h_3 quiet =>
    split
    case isTrue => exact (Event.resets s).one
    case isFalse none =>
      exact (Event.raises s _).one.tail (.mutes _ _ _ (.inr ⟨rfl, .inr ⟨quiet, by simpa using none⟩⟩))
  case h_4 => exact (Event.raises s _).one
  case h_5 | h_6 => exact .refl

theorem joinAccepted_happens {n : Notice} {s : State} (on : Started s) (other : n.sender ≠ s.control.number) :
    Events s (joinAccepted n s) := by
  refine (Event.peerMoves s _ _ _ _ on (.inl other) ?_ (fun _ => PeerOk.joined n s.params) ?_).one
  · simp only [joinedPeer]
    split_ifs <;> decide
  · split_ifs <;> simp

theorem reportAccepted_happens {n : Notice} {s : State} (on : Started s) (other : n.sender ≠ s.control.number) :
    Events s (reportAccepted n s) := by
  have still : ∀ count, { reportedPeer n s.params s.peers[n.sender] with divergence := count }.state ≠ .localEntry := by
    intro count
    simp only [reportedPeer]
    split_ifs <;> decide
  have asked : ∀ d ∈ (if isRunning s.notices.holdoff then [] else [Demand.solicit]), d ≠ .leave := by
    split_ifs <;> simp
  unfold reportAccepted
  split
  next installs =>
   split
   next below =>
    exact (Event.peerMoves s _ _ _ _ on (.inl other) (still _)
      (fun _ => PeerOk.reported installs (Nat.le_of_lt_succ below)) (by simp)).one
   next =>
    exact (Event.peerMoves s _ _ _ _ on (.inl other) (still _)
      (fun _ => PeerOk.reported installs (Nat.zero_le 2)) asked).one
  next refuses =>
    exact (Event.peerMoves s _ _ _ _ on (.inl other) (still _)
      (fun ok => ok.refused (Bool.not_eq_true _ ▸ refuses)) (by simp)).one

theorem demands_happens {ds : List Demand} (h : ∀ d ∈ ds, d ≠ .leave) (s : State) : Events s (demands ds s) := by
  induction ds generalizing s with
  | nil => exact .refl
  | cons d ds ih =>
    exact .head (.demands s d (h d (by simp))) (ih (fun d' hd => h d' (by simp [hd])) (demand d s))

theorem solicitAccepted_happens {n : Notice} {s : State} (on : Started s) : Events s (solicitAccepted n s) := by
  refine .head (.peerNotes s n.sender (solicitedPeer n s.params s.peers[n.sender]) on rfl rfl
    (PeerOk.solicited n s.params)) (demands_happens ?_ _)
  split_ifs <;> simp

theorem leaveAccepted_happens {n : Notice} {s : State} (on : Started s) (other : n.sender ≠ s.control.number) :
    Events s (leaveAccepted n s) :=
  (Event.peerMoves s _ _ _ _ on (.inl other) (by simp [absentPeer]) (fun _ => PeerOk.absent _) (by simp)).one

/-- Counting comes first: the events after it do not look at the counters. -/
theorem acceptNotice_happens {n : Notice} {s : State} (on : receiveOn s.control.station = true)
    (other : n.sender ≠ s.control.number) : Events s (acceptNotice n s) := by
  unfold acceptNotice
  have accepted : Events s (match n.kind with
     | .join => joinAccepted n s
     | .state => reportAccepted n s
     | .alert => reportAccepted n s
     | .solicit => solicitAccepted n s
     | .leave => leaveAccepted n s) ∧ receiveOn (match n.kind with
     | .join => joinAccepted n s
     | .state => reportAccepted n s
     | .alert => reportAccepted n s
     | .solicit => solicitAccepted n s
     | .leave => leaveAccepted n s).control.station = true := by
    cases n.kind with
    | join => exact ⟨joinAccepted_happens (.inl on) other, by simpa [joinAccepted] using on⟩
    | state | alert =>
      refine ⟨reportAccepted_happens (.inl on) other, ?_⟩
      simp only [reportAccepted]
      split_ifs <;> simpa using on
    | solicit => exact ⟨solicitAccepted_happens (.inl on), by simpa [solicitAccepted] using on⟩
    | leave => exact ⟨leaveAccepted_happens (.inl on) other, by simpa [leaveAccepted] using on⟩
  exact accepted.1.trans (Events.counted (.inl accepted.2) _)

theorem staleNotice_happens {n : Notice} {s : State} (on : Started s) : Events s (staleNotice n s) :=
  .head (.counts s .staleNotices 1 on) (Event.peerNotes (bump .staleNotices s) n.sender
    { s.peers[n.sender] with stale := saturatingHalf s.peers[n.sender].stale } on rfl rfl id).one

theorem checkNotice_happens {n : Notice} {s : State} (on : receiveOn s.control.station = true) :
    Events s (checkNotice n s) := by
  unfold checkNotice
  split_ifs with crc own seated sequence
  · exact Events.counted (.inl on) _
  · exact clash_happens s
  · exact Events.counted (.inl on) _
  · exact staleNotice_happens (.inl on)
  · exact acceptNotice_happens on own

theorem handOn_happens (h : Handed) {s : State} (on : receiveOn s.control.station = true) : Events s (handOn h s) := by
  unfold handOn
  split
  · exact Events.counted (.inl on) _
  · exact Events.counted (.inl on) _
  · split
    · exact checkNotice_happens on
    · exact .refl

/-- Cells that pass the recovery while a frame is received or an attempt goes on are one event. -/
theorem hears_timeCells (times : List (Option Int)) (r : Receiver) (s : State) :
    Event s { s with bus := { timeCells times s.bus with receiver := r } } := by
  rw [timeCells_frame times s.bus]
  refine .hears s _ _ _ ?_
  have missed : ∀ b : Bus, (times.foldl timeCell b).missed = b.missed ∨ (times.foldl timeCell b).missed ≤ 1 := by
    induction times with
    | nil => exact fun b => .inl rfl
    | cons o times ih =>
      intro b
      refine .inr ((ih (timeCell b o)).elim (fun same => ?_) id)
      rw [List.foldl_cons, same]
      show (if o.isNone then 1 else 0) ≤ 1
      split_ifs <;> decide
  unfold timeCells
  split_ifs with track
  · exact (missed s.bus).imp_right fun small => ⟨track, small⟩
  · exact .inl rfl

theorem hears_echo (f : InFlight) (times : List (Option Int)) (s : State) :
    Events s { s with bus := hearEcho f times s.bus } := by
  unfold hearEcho
  split_ifs
  · exact (hears_timeCells times _ s).one
  · exact .refl

theorem frameReceived_happens (n : Notice) (times : List (Option Int)) (s : State) :
    Events s (frameReceived n times s) := by
  unfold frameReceived
  split_ifs with on
  · split
    · exact .head (hears_timeCells times spentReceiver s) (checkNotice_happens on)
    · next f flies =>
      unfold frameDuringAttempt
      split_ifs
      · exact (hears_echo f times s).trans (clash_happens _)
      · exact .refl
  · exact .refl

/-! ### Attempts and cells -/

theorem hears_trackCell (c : LineCell) {s : State} (track : s.bus.recovery = .track) :
    Event s { s with bus := trackCell s.bus c } := by
  refine .hears s _ _ _ (.inr ⟨track, ?_⟩)
  show (if c.boundary.isNone then 1 else 0) ≤ 1
  split_ifs <;> decide

theorem heardAttempt_happens (f : InFlight) (agreed : List Int) (heard : LineCell) (s : State) :
    Events s { s with bus := heardAttempt f agreed heard s.bus } := by
  unfold heardAttempt
  split_ifs with track
  · refine (hears_echo f (agreed.map some) s).trans (hears_trackCell heard ?_).one
    rw [hearEcho_frame]
    exact track
  · exact .refl

theorem disposeOf_happens {f : InFlight} {s : State} (flies : s.bus.inFlight = some f) :
    Events s (disposeOf f (abortAttempt f s)) := by
  have counted : Events s (bump .collisionAborts s) := Events.counted (.of_inFlight flies) _
  unfold disposeOf giveUp
  split_ifs with last pending final
  · exact .head (.aside s _ s.pins s.loader s.spi) (Event.resets _).one
  · exact ((counted.trans (Events.counted (s := bump .collisionAborts s) (.of_inFlight flies) .giveUps)).tail (.raises _ _)).tail
      (.ends _ f _ flies (.inr pending))
  · exact counted.tail (.ends _ f _ flies (.inl final))
  · exact counted.tail (.returns _ f _ flies (Nat.lt_of_not_le last) (by simpa using final))

theorem collide_happens {f : InFlight} {s : State} (flies : s.bus.inFlight = some f) (agreed : List Int)
    (heard : LineCell) : Events s (collide f agreed heard s) := by
  have still : (heardAttempt f agreed heard s.bus).inFlight = some f := by
    unfold heardAttempt
    split_ifs
    · rw [hearEcho_frame]
      exact flies
    · exact flies
  refine ((heardAttempt_happens f agreed heard s).trans
    (disposeOf_happens (s := { s with bus := heardAttempt f agreed heard s.bus }) still)).trans ?_
  unfold collide handAfterAbort
  split_ifs with on
  · unfold handOver
    split
    · exact .refl
    · exact handOn_happens _ on
  · exact .refl

theorem endAttempt_happens {f : InFlight} {s : State} (flies : s.bus.inFlight = some f) :
    Events s (endAttempt f s) := by
  have on : Started s := .of_inFlight flies
  unfold endAttempt
  split_ifs with pending
  · exact (Event.resets s).one
  · exact (((Events.counted on _).tail (.times _ (timersAfter f.entry s.params s.notices) (.inl on))).tail
      (.hears _ _ _ spentReceiver (.inl rfl))).tail (.ends _ f _ flies (.inr pending))

end Sys2Proof.Machine
end

section
/-! What demands leave of the bus, and the commands of start-up, steering, light and grader taken apart into events. -/

namespace Sys2Proof.Machine

/-! ### What demands leave of the bus -/

theorem demand_bus (d : Demand) (s : State) : BusDemandsOnly s (demand d s) := by
  rcases demand_cases d s with ⟨-, same⟩ | ⟨-, queued⟩
  · rw [same, BusDemandsOnly]
  · rw [queued, BusDemandsOnly]
    unfold queueDemand
    split_ifs <;> rfl

theorem demands_bus (ds : List Demand) (s : State) : BusDemandsOnly s (demands ds s) := by
  induction ds generalizing s with
  | nil => rfl
  | cons d ds ih => exact (ih (demand d s)).trans (by rw [demand_bus d s]; rfl)

@[simp] theorem demand_recovery (d : Demand) (s : State) : (demand d s).bus.recovery = s.bus.recovery := by
  rw [demand_bus d s]
@[simp] theorem demand_missed (d : Demand) (s : State) : (demand d s).bus.missed = s.bus.missed := by
  rw [demand_bus d s]
@[simp] theorem demand_line (d : Demand) (s : State) : (demand d s).bus.line = s.bus.line := by
  rw [demand_bus d s]
@[simp] theorem demand_idleCount (d : Demand) (s : State) : (demand d s).bus.idleCount = s.bus.idleCount := by
  rw [demand_bus d s]
@[simp] theorem demand_driver (d : Demand) (s : State) : (demand d s).bus.driver = s.bus.driver := by
  rw [demand_bus d s]
@[simp] theorem demand_backoff (d : Demand) (s : State) : (demand d s).bus.backoff = s.bus.backoff := by
  rw [demand_bus d s]
@[simp] theorem demands_recovery (ds : List Demand) (s : State) : (demands ds s).bus.recovery = s.bus.recovery := by
  rw [demands_bus ds s]
@[simp] theorem demands_missed (ds : List Demand) (s : State) : (demands ds s).bus.missed = s.bus.missed := by
  rw [demands_bus ds s]
@[simp] theorem demands_line (ds : List Demand) (s : State) : (demands ds s).bus.line = s.bus.line := by
  rw [demands_bus ds s]
@[simp] theorem demands_idleCount (ds : List Demand) (s : State) :
    (demands ds s).bus.idleCount = s.bus.idleCount := by
  rw [demands_bus ds s]
@[simp] theorem demands_driver (ds : List Demand) (s : State) : (demands ds s).bus.driver = s.bus.driver := by
  rw [demands_bus ds s]

/-! ### What the engine's work on a bucket leaves -/

@[simp] theorem writeHeld_control (g : Group) (b : Bucket) (s : State) : (writeHeld g b s).control = s.control := by
  unfold writeHeld
  split
  · rfl
  · exact flip_control g s
@[simp] theorem writeHeld_bus (g : Group) (b : Bucket) (s : State) : (writeHeld g b s).bus = s.bus := by
  unfold writeHeld
  split
  · rfl
  · exact flip_bus g s
@[simp] theorem writeFailed_control (g : Group) (s : State) : (writeFailed g s).control = s.control := by
  unfold writeFailed retry
  split_ifs <;> simp
@[simp] theorem writeFailed_bus (g : Group) (s : State) : (writeFailed g s).bus = s.bus := by
  unfold writeFailed retry
  split_ifs <;> simp

/-- The recovery is in TRACK only while receive is on (R53). -/
def TracksOn (s : State) : Prop := s.bus.recovery = .track → receiveOn s.control.station = true

theorem Event.keeps_tracksOn {s t : State} (e : Event s t) (ok : TracksOn s) : TracksOn t := by
  cases e with
  | lineBusy boundary receiver owed on => exact fun _ => on
  | lineIdle on => exact fun _ => on
  | mutes settle dirty h => exact fun _ => by simp [receiveOn]
  | quiets restart may => exact fun _ => by simp [receiveOn]
  | wakes => exact fun _ => by simp [receiveOn]
  | settles => exact fun _ => by simp [markAllDirty, receiveOn]
  | resets => exact fun track => by simp [restartReset, Bus.reset] at track
  | powersOn => exact fun track => by simp [powerOnReset, restartReset, Bus.reset] at track
  | demands | portsMove | peerMoves | holds | fails | parityFails | starts =>
    simpa [TracksOn, movePorts, movePeer, changePeer, beginAttempt] using ok
  | _ => exact ok

theorem Events.keeps {P : State → Prop} (step : ∀ {s t}, Event s t → P s → P t) {s t : State} (path : Events s t)
    (ok : P s) : P t := by
  induction path with
  | refl => exact ok
  | tail _ e ih => exact step e ih

theorem hearCell_happens (place : Nat) (c : LineCell) {s : State} (ok : TracksOn s) :
    Events s (hearCell place c s) := by
  unfold hearCell
  split
  case isFalse => exact .refl
  case isTrue track =>
    have on := ok track
    split
    next f flies =>
      have heard := hears_trackCell c track
      unfold echoCell
      split
      · exact .refl
      · split_ifs
        · exact collide_happens flies [] c
        · exact .head heard (endAttempt_happens flies)
        · exact heard.one
    next =>
      unfold receivedCell handOver
      split_ifs
      · refine .head (.lineIdle s on) ?_
        split
        · exact .refl
        · exact handOn_happens _ on
      · refine .head (hears_trackCell c track) ?_
        split
        · exact .refl
        · exact handOn_happens _ on

theorem hearCells_happens (cells : List LineCell) : ∀ (place : Nat) {s : State}, TracksOn s →
    Events s (hearCells place cells s) := by
  induction cells with
  | nil => exact fun _ _ _ => .refl
  | cons c cells ih =>
    intro place s ok
    have first := hearCell_happens place c ok
    exact first.trans (ih (place + 1) (first.keeps Event.keeps_tracksOn ok))

/-! ### The lookup port -/

/-- An entry read, behind whatever the lookup port has done with its FIFO. -/
theorem entryRead_happens (r : Request) (upset : MapWord) {s : State} {l : LookupPort}
    (kept : ∀ v : Service, LookupOk s → LookupOk { s with lookup := { l with service := some v } }) :
    Events s (entryRead r upset { s with lookup := l }) := by
  unfold entryRead
  split_ifs with idle
  · exact (Event.looksUp s _ (kept .notReady)).one
  · have serves : servesLookups s.control.station = true := by
      by_contra off
      exact idle (.inl (by simpa using off))
    have on := receiveOn_of_servesLookups serves
    have found : ∀ v, Events s (holdService v (applyUpset r upset { s with lookup := l })) := fun v =>
      (Event.looksUp s { l with service := some v } (kept v)).one.tail (.stores _ _ _ _ _ (.inl on))
    split
    · exact found _
    · exact (found .parityFailure).tail (.parityFails _ _ serves)

/-! ### Every command -/

/-- A command of the inspection port that an event follows, or none. -/
theorem takeCommand_happens {s : State} {status : CommandStatus} {data : List Byte} {effect : State → State}
    (h : status = .accepted → ∀ spi, Events { s with spi := spi } (effect { s with spi := spi })) :
    Events s (takeCommand status data effect s) := by
  have spi : ∀ t : Transaction, Event s { s with spi := t } := fun t => .aside s s.freeCount s.pins s.loader t
  unfold takeCommand
  split_ifs with opened accepted
  · exact .head (spi _) (h accepted _)
  · exact (spi _).one
  · exact .refl

theorem takeReading_happens (bad : Bool) (data : List Byte) (s : State) : Events s (takeReading bad data s) :=
  takeCommand_happens fun _ _ => .refl

/-- Of a steering command only what the checks let through acts. -/
theorem takeSteering_happens {s : State} {bad off allowed : Bool} {effect : State → State}
    (h : off = false → allowed = true → ∀ spi, Events { s with spi := spi } (effect { s with spi := spi })) :
    Events s (takeSteering bad off allowed effect s) := by
  refine takeCommand_happens fun accepted => ?_
  unfold commandStatus at accepted
  split_ifs at accepted with loading bad off allowed
  exact h (by simpa using off) allowed

/-- One port takes a legal new value. -/
theorem portOk_set {r : Nat} {ports : Vector Port 8} {p : PortNo} {port : Port}
    (h : PortOk r ports[p] → PortOk r port) (q : PortNo) (ok : PortOk r ports[q]) : PortOk r (ports.set p port)[q] := by
  by_cases same : q = p
  · subst same
    simpa using h ok
  · have other : (p : Nat) ≠ q := fun h => same (Fin.ext h.symm)
    simpa [Vector.getElem_set_ne, other] using ok

theorem movePort_happens {s : State} {p : PortNo} {port : Port} (on : Started s)
    (h : PortOk s.params.rampSteps.toNat s.ports[p] → PortOk s.params.rampSteps.toNat port) :
    Events s (movePort p port s) :=
  (Event.portsMove s _ _ on (portOk_set h)).one

theorem drainPort_happens {s : State} {p : PortNo} (on : s.ports[p].condition ≠ .off) : Events s (drainPort p s) := by
  unfold drainPort
  split_ifs
  · exact .refl
  · exact movePort_happens (.of_port on) fun ok => ok.settled on (by decide) (by decide) (by decide)

/-- The queue holds a LEAVE, or one flies, so that a second restart waits for it. -/
theorem restartStation_happens (s : State) : Events s (restartStation s) := by
  unfold restartStation
  split
  case h_1 joining => exact (Event.quiets s true (by simp [joining, mayGoQuiet])).one
  case h_2 operating => exact (Event.quiets s true (by simp [operating, mayGoQuiet])).one
  case h_3 quiet =>
    split_ifs with pending remains
    · exact .refl
    · exact (Event.restartWaits s quiet remains).one
    · exact (Event.resets s).one
  case h_4 | h_5 => exact (Event.resets s).one
  case h_6 => exact .refl

/-- Outside the end of loading, a command is made of events. -/
def EndsLoading (s t : State) : Prop :=
  s.control.station = .loading ∧
  ((∃ cause left, t = enterConfigFault cause left s) ∨ ∃ record, t = enterJoining (handOut record s))

/-- A command answers a next state: loading has ended, or events lead to it. -/
def Answers (s : State) (o : Host.Outcome State Fault Refusal) : Prop :=
  ∃ t, o = .next t ∧ (EndsLoading s t ∨ Events s t)

theorem Answers.of_events {s t : State} (path : Events s t) : Answers s (.next t) := ⟨t, rfl, .inr path⟩

theorem Answers.same (s : State) : Answers s (.next s) := .of_events .refl

theorem Answers.aside (s : State) (n : Nat) (pins : Pins) (loader : Loader) (spi : Transaction) :
    Answers s (.next { s with freeCount := n, pins := pins, loader := loader, spi := spi }) :=
  .of_events (Event.aside s n pins loader spi).one

/-! #### Start-up -/

theorem Answers.fault {s : State} (loading : s.control.station = .loading) (cause : FaultCause)
    (left : List I2cElement) : Answers s (.next (enterConfigFault cause left s)) :=
  ⟨_, rfl, .inl ⟨loading, .inl ⟨cause, left, rfl⟩⟩⟩

theorem loading_of_attemptOnBus {s : State} (h : attemptOnBus s = true) : s.control.station = .loading := by
  simp only [attemptOnBus, Bool.and_eq_true, beq_iff_eq] at h
  exact h.1.1

theorem addressNotAcknowledged_answers (stage : AddressStage) (s : State) :
    Answers s (execAddressNotAcknowledged stage s) := by
  unfold execAddressNotAcknowledged
  split_ifs with reads
  · exact .aside s _ _ _ _
  · exact .fault (loading_of_attemptOnBus reads) _ _
  · exact .fault (loading_of_attemptOnBus reads) _ _
  · exact .same s

theorem readRetryDelayExpiry_answers (s : State) : Answers s (execReadRetryDelayExpiry s) := by
  unfold execReadRetryDelayExpiry
  split_ifs
  · exact .aside s _ _ _ _
  · exact .same s

theorem loadingTimeout_answers (s : State) : Answers s (execLoadingTimeout s) := by
  unfold execLoadingTimeout
  split_ifs with h
  · exact .fault h.1 _ _
  · exact .same s

theorem recordReceived_answers (record : Vector Byte 28) (s : State) : Answers s (execRecordReceived record s) := by
  unfold execRecordReceived
  split_ifs with reads
  · have loading := loading_of_attemptOnBus reads
    split
    · exact .fault loading _ _
    · exact ⟨_, rfl, .inl ⟨loading, .inr ⟨record, rfl⟩⟩⟩
  · exact .same s

theorem joinSettleTimerExpiry_answers (s : State) : Answers s (execJoinSettleTimerExpiry s) := by
  unfold execJoinSettleTimerExpiry
  split_ifs with h
  · exact .of_events (Event.settles s h.1).one
  · exact .same s

theorem attentionAssertion_answers (s : State) : Answers s (execAttentionAssertion s) := by
  unfold execAttentionAssertion
  split_ifs with high may
  · exact .same s
  · exact .of_events ((Event.aside s s.freeCount { s.pins with attn := true } s.loader s.spi).one.tail
      (.quiets _ false may))
  · exact .aside s _ _ _ _

/-! #### Steering commands -/

theorem drain_answers (port : Byte) (s : State) : Answers s (execDrain port s) :=
  .of_events (takeSteering_happens fun on _ _ => drainPort_happens (by simpa using on))

theorem undrain_answers (port : Byte) (s : State) : Answers s (execUndrain port s) := by
  refine .of_events (takeSteering_happens fun off _ spi => ?_)
  have on : s.ports[portOfByte port].condition ≠ .off := by simpa using off
  exact movePort_happens (s := { s with spi := spi }) (.of_port on) fun ok => ok.undrained on

theorem quiet_answers (s : State) : Answers s (execQuiet s) :=
  .of_events (takeSteering_happens fun _ may spi => (Event.quiets { s with spi := spi } false may).one)

theorem wake_answers (s : State) : Answers s (execWake s) := by
  refine .of_events (takeSteering_happens fun _ may spi => ?_)
  simp only [Bool.and_eq_true, beq_iff_eq, Bool.not_eq_true'] at may
  exact (Event.wakes { s with spi := spi } may.1 may.2).one

/-! #### The light monitor and the error grader -/

theorem Started.of_sampling {s : State} {p : PortNo} (h : sampling s p = true) : Started s := by
  simp only [sampling, Bool.and_eq_true] at h
  exact .inr (.inl h.1)

theorem cadenceTransition_answers (p : PortNo) (s : State) : Answers s (execCadenceTransition p s) := by
  unfold execCadenceTransition
  split_ifs with h
  · exact .of_events ((Event.samples s p s.ports[p].losSeen true (.of_sampling h)).one.tail
      (.aside _ s.freeCount _ s.loader s.spi))
  · exact .aside s _ _ _ _

theorem cadenceWindowExpiry_answers (s : State) : Answers s (execCadenceWindowExpiry s) := by
  unfold execCadenceWindowExpiry
  split_ifs with runs
  · refine .of_events (.head (.windows s (cadenceTime s.params) s.errorTimer (.inr (.inl runs)))
      (.head (.counts _ .flickers ((List.finRange 8).countP fun p => isFlicker s.ports[p]) (.inr (.inl rfl)))
        (Event.portsMove _ _ [] (.inr (.inl rfl)) fun p ok => ?_).one))
    simpa using ok.judged s.params s.pins.los[p]
  · exact .same s

theorem losAssertion_answers (p : PortNo) (s : State) : Answers s (execLosAssertion p s) := by
  have rise : ∀ pins, Event s { s with pins := pins } := fun pins => .aside s s.freeCount pins s.loader s.spi
  unfold execLosAssertion
  split_ifs with high lit samples
  · exact .same s
  · refine .of_events (.head (rise _) (movePort_happens (.of_sampling lit.1) fun ok => ?_))
    have enabled : (loseLight s.ports[p]).enabled = true :=
      (loseLight_enabled _).trans (by simpa [sampling] using (Bool.and_eq_true _ _ ▸ lit.1).2)
    exact ok.loseLight.relit enabled .noLight _ true _
  · exact .of_events ((Event.samples s p true s.ports[p].transitionSeen (.of_sampling samples)).one.tail
      (.aside _ s.freeCount _ s.loader s.spi))
  · exact .of_events (rise _).one

theorem restoreTimerExpiry_answers (p : PortNo) (s : State) : Answers s (execRestoreTimerExpiry p s) := by
  unfold execRestoreTimerExpiry
  split_ifs with h
  · have on : s.ports[p].condition ≠ .off := by rw [h.1]; decide
    exact .of_events (movePort_happens (.of_port on) fun ok => ok.beginService on)
  · exact .same s

theorem rampTimerExpiry_answers (p : PortNo) (s : State) : Answers s (execRampTimerExpiry p s) := by
  unfold execRampTimerExpiry
  split_ifs with h
  · exact .of_events (movePort_happens (.of_port (p := p) (by rw [h.1]; decide)) fun ok => ok.stepped h.1)
  · exact .same s

@[simp] theorem countPulse_clean (kind : ErrorKind) (threshold : Byte) (g : Grader) :
    (countPulse kind threshold g).clean = g.clean := by
  cases kind <;> rfl

theorem errorPulse_answers (p : PortNo) (kind : ErrorKind) (s : State) : Answers s (execErrorPulse p kind s) := by
  have graded : ∀ grader : Grader, grader.clean = s.graders[p].clean ∨ grader.clean = 0 →
      ∀ q : PortNo, (s.graders.set p grader)[q].clean = s.graders[q].clean ∨ (s.graders.set p grader)[q].clean = 0 ∨
        (s.ports[q].condition = .degraded ∧
          (s.graders.set p grader)[q].clean < s.params.cleanWindows.toNat) := by
    intro grader h q
    by_cases same : q = p
    · subst same
      simpa using h.imp_right .inl
    · have other : (p : Nat) ≠ q := fun h => same (Fin.ext h.symm)
      exact .inl (by simp [Vector.getElem_set_ne, other])
  unfold execErrorPulse
  split_ifs with on crossing
  · have clean : crossedClean (actionOf kind s.params) s.graders[p].clean = s.graders[p].clean ∨
        crossedClean (actionOf kind s.params) s.graders[p].clean = 0 := by
      cases actionOf kind s.params <;> simp [crossedClean]
    exact .of_events ((Event.grades s _ (.inl on) (graded { countPulse kind s.params.threshold s.graders[p] with
      clean := crossedClean (actionOf kind s.params) s.graders[p].clean } clean)).one.tail
      (.portsMove _ _ _ (.inl on) (portOk_set (PortOk.crossed s.params _))))
  · exact .of_events (Event.grades s _ (.inl on) (graded _ (by simp))).one
  · exact .same s

/-- The clean count after an error window returns to 0, or goes on below Nc (R46). -/
theorem judgedClean_cases (params : Params) (p : Port) (g : Grader) :
    judgedClean params p g = 0 ∨ (p.condition = .degraded ∧ judgedClean params p g < params.cleanWindows.toNat) := by
  unfold judgedClean
  split_ifs with goes
  · simp only [recovers, isJudged, Bool.and_eq_true, beq_iff_eq, Bool.not_eq_true'] at goes
    obtain ⟨⟨⟨enabled, degraded⟩, clean⟩, below⟩ := goes
    simp only [enabled, degraded, clean, beq_self_eq_true, Bool.and_self, Bool.true_and, decide_eq_false_iff_not,
      not_le] at below
    exact .inr ⟨degraded, below⟩
  · exact .inl rfl

/-- A port that its error window hands a recovery goes to LIT, and any other stays (R46, R47). -/
theorem PortOk.recovered {r : Nat} {params : Params} {p : Port} (g : Grader) (ok : PortOk r p) :
    PortOk r (if recovers params p g then settledPort .lit p else p) := by
  split_ifs with h
  · simp only [recovers, isJudged, Bool.and_eq_true, beq_iff_eq] at h
    exact ok.settled (by rw [h.1.1.2]; decide) (by decide) (by decide) (by decide)
  · exact ok

theorem errorWindowExpiry_answers (s : State) : Answers s (execErrorWindowExpiry s) := by
  have graded : ∀ p : PortNo,
      (Vector.ofFn fun p => windowedGrader s.params s.ports[p] s.graders[p])[p].clean = s.graders[p].clean ∨
      (Vector.ofFn fun p => windowedGrader s.params s.ports[p] s.graders[p])[p].clean = 0 ∨
      (s.ports[p].condition = .degraded ∧
        (Vector.ofFn fun p => windowedGrader s.params s.ports[p] s.graders[p])[p].clean <
          s.params.cleanWindows.toNat) := by
    intro p
    simpa [windowedGrader] using .inr (judgedClean_cases s.params s.ports[p] s.graders[p])
  have moved : ∀ p : PortNo, PortOk s.params.rampSteps.toNat s.ports[p] → PortOk s.params.rampSteps.toNat
      (Vector.ofFn fun p => if recovers s.params s.ports[p] s.graders[p] then settledPort .lit s.ports[p]
        else s.ports[p])[p] := by
    intro p ok
    simpa using ok.recovered (params := s.params) s.graders[p]
  unfold execErrorWindowExpiry
  split_ifs with runs
  · have on : Started s := .inr (.inr (.inl runs))
    have still : isRunning (errorTime s.params) = true := rfl
    exact .of_events (((Event.grades s _ on graded).one.tail (.windows _ s.cadenceTimer (errorTime s.params) on)).tail
      (.portsMove _ _ [] (.inr (.inr (.inl still))) moved))
  · exact .same s

end Sys2Proof.Machine
end

section
/-! The commands of the failover bus, the lookup port and the engine taken apart into events, and the induction on steps. -/

namespace Sys2Proof.Machine

/-! #### The failover bus -/

theorem lineBusy_answers (s : State) : Answers s (execLineBusy s) := by
  unfold execLineBusy
  split_ifs with h
  · exact .of_events (Event.lineBusy s _ _ _ h.1).one
  · exact .same s

/-- Receive is on where LINE_IDLE tells cells, so that the recovery tracks with reason. -/
theorem lineIdle_answers (cells : List LineCell) (s : State) : Answers s (execLineIdle cells s) := by
  unfold execLineIdle
  split_ifs with on
  · exact .of_events (hearCells_happens _ 0 fun _ => on)
  · exact .same s

theorem startHead_happens (s : State) : Events s (startHead s) := by
  unfold startHead
  split
  next e head =>
    split_ifs with may
    · exact (Event.starts s _ e head may).one
    · exact .refl
  next => exact .refl

theorem attemptStart_answers (cells : Nat) (s : State) : Answers s (execAttemptStart cells s) :=
  .of_events (.head (.idlePasses s cells) (startHead_happens _))

theorem collision_answers (agreed : List Int) (heard : LineCell) (s : State) :
    Answers s (execCollision agreed heard s) := by
  unfold execCollision
  split
  · exact .same s
  · next f flies =>
    split
    · exact .same s
    · split_ifs
      · exact .of_events (collide_happens flies agreed heard)
      · exact .same s

/-- The cells of an attempt that completes pass the recovery and leave the receiver to the end of the attempt. -/
theorem hearAttempt_happens (f : InFlight) (s : State) : Events s (hearAttempt f s) := by
  have heard := (hears_timeCells (echoTimes f s.freeCount) s.bus.receiver s).one
  rw [← timeCells_receiver] at heard
  exact heard.tail (.aside _ (s.freeCount + (sentCells f).length) s.pins s.loader s.spi)

theorem attemptComplete_answers (s : State) : Answers s (execAttemptComplete s) := by
  unfold execAttemptComplete
  split
  · exact .same s
  · next f flies =>
    split_ifs
    · exact .of_events (collide_happens flies [] missedCell)
    · refine .of_events ((hearAttempt_happens f s).trans (endAttempt_happens ?_))
      show (timeCells _ s.bus).inFlight = some f
      rw [timeCells_frame]
      exact flies

/-! #### Notices -/

theorem badFrameReceived_answers (frame : Heard BadFrame) (s : State) : Answers s (execBadFrameReceived frame s) := by
  unfold execBadFrameReceived
  split_ifs with h
  · simp only [Bool.and_eq_true] at h
    exact .of_events (.head (hears_timeCells frame.times spentReceiver s) (handOn_happens _ h.1))
  · exact .same s

theorem announceTimerExpiry_answers (s : State) : Answers s (execAnnounceTimerExpiry s) := by
  have asked : ∀ d ∈ (if reportPending s.bus then [] else [Demand.state]), d ≠ .leave := by
    split_ifs <;> simp
  unfold execAnnounceTimerExpiry
  split
  next runs =>
    exact .of_events (.head (.times s _ (.inl (.inr (.inr (.inr (.inl runs)))))) (demands_happens asked _))
  next => exact .same s

/-! #### The peer table -/

theorem silenceTimerExpiry_answers (i : StationNo) (s : State) : Answers s (execSilenceTimerExpiry i s) := by
  unfold execSilenceTimerExpiry
  split_ifs with h
  · simp only [Bool.and_eq_true] at h
    have other : s.peers[i].state ≠ .localEntry := by
      intro own
      rw [isHeard, own] at h
      exact absurd h.1 Bool.false_ne_true
    exact .of_events (Event.peerMoves s i _ [] [] (.inr (.inr (.inr (.inr (.inr (.inr (.inl ⟨i, h.1⟩)))))))
      (.inr other) (by simp [silentPeer]) (fun _ => PeerOk.silent _) (by simp)).one
  · exact .same s

theorem presenceLineFall_answers (i : StationNo) (s : State) : Answers s (execPresenceLineFall i s) := by
  have fall : ∀ pins, Event s { s with pins := pins } := fun pins => .aside s s.freeCount pins s.loader s.spi
  unfold execPresenceLineFall
  split_ifs with low acts
  · exact .same s
  · simp only [fallActs, Bool.and_eq_true, bne_iff_ne] at acts
    exact .of_events ((fall _).one.tail (.peerMoves _ i (absentPeer s.peers[i]) [] [] (.inl acts.1.1.1) (.inr acts.1.2)
      (by simp [absentPeer]) (fun _ => PeerOk.absent _) (by simp)))
  · exact .of_events (fall _).one

/-! #### The recompute engine and the lookup port -/

theorem bucketDone_answers (stuck : MapWord) (s : State) : Answers s (execBucketDone stuck s) := by
  unfold execBucketDone
  split
  · exact .same s
  · next g b runs =>
    have written : Events s (writeBucket g b stuck s) := (Event.stores s _ _ _ _ (.of_run runs)).one
    split_ifs
    · exact .of_events (written.tail (.holds _ g b runs))
    · exact .of_events (written.tail (.fails _ g b runs))

theorem lookupRequest_answers (g : Group) (b : Bucket) (tag : Tag) (upset : MapWord) (s : State) :
    Answers s (execLookupRequest g b tag upset s) := by
  unfold execLookupRequest
  split_ifs with ready empty
  · refine .of_events (entryRead_happens _ upset fun v ok => ?_)
    simp [LookupOk, Config.fifoDepth]
  · refine .of_events (Event.looksUp s _ fun ok => ?_).one
    obtain ⟨-, same, service⟩ := ok
    have room : s.lookup.fifo.length < 8 := by simpa [same] using ready
    have some_ : s.lookup.service.isSome = true := service.mpr (by simpa using empty)
    refine ⟨?_, rfl, ?_⟩
    · simp
      omega
    · simp [some_]
  · exact .same s

theorem replyFormation_answers (upset : MapWord) (s : State) : Answers s (execReplyFormation upset s) := by
  unfold execReplyFormation
  split
  · exact .same s
  · exact .same s
  · exact .of_events (Event.looksUp s _ fun ok => by simp [LookupOk, Config.fifoDepth]).one
  · next r next rest v queued held =>
    refine .of_events (entryRead_happens _ upset fun v' ok => ?_)
    obtain ⟨small, -⟩ := ok
    rw [queued] at small
    simp only [List.length_cons] at small
    exact ⟨by simp only [List.length_cons]; omega, rfl, by simp⟩

/-- Every command answers a next state: loading has ended, or events lead to it. -/
theorem exec_answers (c : Instr) (s : State) : Answers s (exec c s) := by
  cases c with
  | powerOn straps =>
    exact .of_events ((Event.aside s s.freeCount { s.pins with straps := straps } s.loader s.spi).one.tail (.powersOn _))
  | addressNotAcknowledged stage => exact addressNotAcknowledged_answers stage s
  | readRetryDelayExpiry => exact readRetryDelayExpiry_answers s
  | loadingTimeout => exact loadingTimeout_answers s
  | recordReceived record => exact recordReceived_answers record s
  | joinSettleTimerExpiry => exact joinSettleTimerExpiry_answers s
  | attentionAssertion => exact attentionAssertion_answers s
  | spiTransactionOpen | spiTransactionEnd | losRelease | presenceLineRise | attentionRelease =>
    exact .aside s _ _ _ _
  | unknownCommand | status | readUplink | readPeer | readCandidate | readEntry | readCounters | readEvents =>
    exact .of_events (takeReading_happens _ _ s)
  | clearEvents mask => exact .of_events (takeSteering_happens fun _ _ _ => (Event.clears _ _).one)
  | setMask mask => exact .of_events (takeSteering_happens fun _ _ _ => (Event.masks _ _).one)
  | drain port => exact drain_answers port s
  | undrain port => exact undrain_answers port s
  | quiet => exact quiet_answers s
  | wake => exact wake_answers s
  | restart => exact .of_events (takeSteering_happens fun _ _ _ => restartStation_happens _)
  | cadenceTransition port => exact cadenceTransition_answers port s
  | cadenceWindowExpiry => exact cadenceWindowExpiry_answers s
  | losAssertion port => exact losAssertion_answers port s
  | restoreTimerExpiry port => exact restoreTimerExpiry_answers port s
  | rampTimerExpiry port => exact rampTimerExpiry_answers port s
  | errorPulse port kind => exact errorPulse_answers port kind s
  | errorWindowExpiry => exact errorWindowExpiry_answers s
  | lineBusy => exact lineBusy_answers s
  | lineIdle cells => exact lineIdle_answers cells s
  | attemptStart cells => exact attemptStart_answers cells s
  | collision agreed heard => exact collision_answers agreed heard s
  | attemptComplete => exact attemptComplete_answers s
  | badFrameReceived frame => exact badFrameReceived_answers frame s
  | joinReceived | stateReceived | alertReceived | solicitReceived | leaveReceived =>
    exact .of_events (frameReceived_happens _ _ s)
  | announceTimerExpiry => exact announceTimerExpiry_answers s
  | solicitHoldoffExpiry => exact .of_events (Event.times s _ (.inr rfl)).one
  | silenceTimerExpiry station => exact silenceTimerExpiry_answers station s
  | presenceLineFall station => exact presenceLineFall_answers station s
  | bucketDone stuck => exact bucketDone_answers stuck s
  | lookupRequest group bucket tag upset => exact lookupRequest_answers group bucket tag upset s
  | replyFormation upset => exact replyFormation_answers upset s

/-- A property of states that every event and every bit cell keeps, and the end of loading too, is kept by every step;
the queue of commands is no part of it. -/
theorem step_keeps {P : State → Prop} (queue : ∀ {s} (rest : List Instr), P s → P { s with pending := rest })
    (cell : ∀ {s}, P s → P (tick s)) (loads : ∀ {s t}, EndsLoading s t → P s → P t)
    (event : ∀ {s t}, Event s t → P s → P t) {s t : State} (h : step s = .next t) (ok : P s) : P t := by
  unfold step at h
  split at h
  · cases h
    exact cell ok
  · next c rest _ =>
    obtain ⟨u, answered, path⟩ := exec_answers c { s with pending := rest }
    rw [answered] at h
    cases h
    rcases path with ends | path
    · exact loads ends (queue rest ok)
    · exact path.keeps event (queue rest ok)

end Sys2Proof.Machine
end

section
/-! The invariants of steps, one case per event: map memory and the event unit, the engine, and the parameters. -/

namespace Sys2Proof.Machine

/-! ### Fields that the end of loading leaves or moves -/

theorem EndsLoading.map_eq {s t : State} (h : EndsLoading s t) : t.map = s.map := by
  obtain ⟨-, ⟨cause, left, rfl⟩ | ⟨record, rfl⟩⟩ := h <;> simp

/-! ### Map memory (log entry 7) -/

theorem mapOk_of_eq {s t : State} (same : t.map = s.map) (ok : MapOk s) : MapOk t := by
  rwa [MapOk, same]

@[simp] theorem writeHeld_words (g : Group) (b : Bucket) (s : State) : (writeHeld g b s).map.words = s.map.words := by
  unfold writeHeld flip
  split <;> simp

@[simp] theorem writeFailed_map (g : Group) (s : State) : (writeFailed g s).map = s.map := by
  unfold writeFailed retry
  split_ifs
  · exact mapFault_map g s
  · rfl
  · rfl

/-- Map memory is written by storing a word, and emptied by a reset; no other event touches a word of it. -/
theorem Event.keeps_mapOk {s t : State} (e : Event s t) (ok : MapOk s) : MapOk t := by
  cases e with
  | stores g k b w => exact storeWord_wf g k b w ok
  | resets | powersOn => exact rfl
  | holds => rwa [MapOk, writeHeld_words]
  | demands | portsMove | peerMoves | mutes | quiets | wakes | settles | fails | parityFails =>
    exact mapOk_of_eq (by simp [markAllDirty]) ok
  | _ => exact ok

/-! ### The event unit (R170, R175, R176) -/

theorem clearFlags_eventsOk (named : BitVec 12) (s : State) :
    EventsOk { s with events := clearFlags named s.events } :=
  ⟨rfl, rfl, fun none => if_pos none⟩

theorem replaceMask_eventsOk (mask : BitVec 12) {s : State} (ok : EventsOk s) :
    EventsOk { s with events := replaceMask mask s.events } :=
  ⟨rfl, rfl, ok.2.2⟩

theorem eventsOk_of_reset {s : State} (reset : s.events = EventUnit.reset) : EventsOk s := by
  rw [EventsOk, reset]
  decide

theorem eventsOk_of_eq {s t : State} (same : t.events = s.events) (ok : EventsOk s) : EventsOk t := by
  rwa [EventsOk, same]

/-- The last thing that a change of ports, peers or map does to the events is to take raises. -/
theorem eventsOk_of_raises {s t u : State} {rs : List Raise} (before : u.events = s.events)
    (after : t.events = (raiseEvents rs u).events) (ok : EventsOk s) : EventsOk t :=
  eventsOk_of_eq after (raiseEvents_eventsOk rs (eventsOk_of_eq before ok))

theorem Event.keeps_eventsOk {s t : State} (e : Event s t) (ok : EventsOk s) : EventsOk t := by
  cases e with
  | raises rs => exact raiseEvents_eventsOk rs ok
  | clears named => exact clearFlags_eventsOk named s
  | masks mask => exact replaceMask_eventsOk mask ok
  | resets | powersOn => exact eventsOk_of_reset rfl
  | portsMove | peerMoves =>
    refine eventsOk_of_raises (s := s) ?_ (search_events _) ok
    simp [changePeer]
  | parityFails g =>
    refine eventsOk_of_raises (s := s) ?_ (search_events _) ok
    rw [bump_events]
    split_ifs <;> rfl
  | holds g b =>
    refine eventsOk_of_eq ?_ ok
    unfold writeHeld
    split
    · rfl
    · exact flip_events g s
  | fails g b =>
    unfold writeFailed mapFault retry
    split_ifs
    · exact eventsOk_of_raises (s := s) rfl (search_events _) ok
    · exact ok
    · exact ok
  | demands | mutes | quiets | wakes | settles => exact eventsOk_of_eq (by simp [markAllDirty]) ok
  | _ => exact ok

theorem EndsLoading.keeps_eventsOk {s t : State} (h : EndsLoading s t) (ok : EventsOk s) : EventsOk t := by
  obtain ⟨-, ⟨cause, left, rfl⟩ | ⟨record, rfl⟩⟩ := h
  · exact raiseEvents_eventsOk _ ok
  · exact eventsOk_of_eq (enterJoining_events _) (replaceMask_eventsOk (recordMask record) ok)

/-- Settles O54: words are only stored in the canonical form, and flags and mask only change where interrupt and
severity are brought to agree. -/
theorem stepKeepsMapAndEvents : Obligations.StepKeepsMapAndEvents := fun _ _ h =>
  ⟨step_keeps (fun _ ok => ok) (fun ok => ok) (fun ends => mapOk_of_eq ends.map_eq) Event.keeps_mapOk h,
    step_keeps (fun _ ok => ok) (fun ok => ok) EndsLoading.keeps_eventsOk Event.keeps_eventsOk h⟩

/-! ### The parameters (R7) -/

/-- The parameters are as they were, or a reset has led to LOADING, which no event leaves. -/
def ParamsKept (s t : State) : Prop :=
  t.pending = s.pending ∧ (t.params = s.params ∨ t.control.station = .loading) ∧
  (s.control.station = .loading → t.control.station = .loading)

theorem Event.paramsKept {s t : State} (e : Event s t) : ParamsKept s t := by
  cases e with
  | resets | powersOn => exact ⟨rfl, .inr rfl, fun _ => rfl⟩
  | mutes settle dirty h =>
    refine ⟨by simp, .inl (by simp), fun loading => ?_⟩
    simp [loading] at h
  | quiets restart may =>
    refine ⟨by simp, .inl (by simp), fun loading => ?_⟩
    simp [loading, mayGoQuiet] at may
  | wakes quiet => exact ⟨by simp, .inl (by simp), fun loading => by simp [loading] at quiet⟩
  | settles joining =>
    exact ⟨by simp [markAllDirty], .inl (by simp [markAllDirty]), fun loading => by simp [loading] at joining⟩
  | demands | portsMove | peerMoves | parityFails => exact ⟨by simp, .inl (by simp), fun loading => by simpa using loading⟩
  | holds g b =>
    refine ⟨?_, .inl ?_, fun loading => by simpa using loading⟩ <;> unfold writeHeld <;> split <;> simp
  | fails g b =>
    refine ⟨?_, .inl ?_, fun loading => by simpa using loading⟩ <;> unfold writeFailed retry <;> split_ifs <;> simp
  | _ => exact ⟨rfl, .inl rfl, id⟩

theorem ParamsKept.then {s t u : State} (h : ParamsKept s t) (h' : ParamsKept t u) : ParamsKept s u := by
  obtain ⟨queue, params, loading⟩ := h
  obtain ⟨queue', params', loading'⟩ := h'
  refine ⟨queue'.trans queue, params'.elim (fun same => ?_) .inr, loading' ∘ loading⟩
  exact params.imp same.trans loading'

theorem Events.paramsKept {s t : State} (path : Events s t) : ParamsKept s t := by
  induction path with
  | refl => exact ⟨rfl, .inl rfl, id⟩
  | tail _ e ih => exact ih.then e.paramsKept

/-- Settles O3: of the events only a reset changes parameters, and LOADING is left only as it ends. -/
theorem commandsNeverStop : Obligations.CommandsNeverStop := by
  intro c s
  obtain ⟨t, answered, ends | path⟩ := exec_answers c s
  · refine ⟨t, answered, ?_, .inr (.inl ends.1)⟩
    obtain ⟨-, ⟨cause, left, rfl⟩ | ⟨record, rfl⟩⟩ := ends <;> simp
  · obtain ⟨queue, params, -⟩ := path.paramsKept
    exact ⟨t, answered, queue, params.imp_right .inr⟩

end Sys2Proof.Machine
end

section
/-! The recompute engine: what every step keeps of it (R114, R136 to R147). -/

namespace Sys2Proof.Machine

/-- What `EngineOk` says of an engine in a state of which it knows the station state and the bucket code, but for the
search. -/
def EngineFits (station : StationState) (code : BitVec 2) (e : Engine) : Prop :=
  (∀ g b, e.run = .running g b → receiveOn station = true ∧ e.fault[g] = false ∧ b.val < bucketCount code) ∧
  e.score = ScoreUnit.reset ∧
  (e.snapshot.map SnapshotPair.uplink).Pairwise (· < ·) ∧ ∀ pair ∈ e.snapshot, 1 ≤ pair.weight.toNat

theorem engineOk_iff (s : State) :
    EngineOk s ↔ EngineFits s.control.station s.params.bucketCode s.engine ∧
      (s.engine.run = .idle → engineMayStart s.control.station = true → groupToTake s = none) := by
  unfold EngineOk EngineFits
  tauto

theorem EngineOk.fits {s : State} (ok : EngineOk s) :
    EngineFits s.control.station s.params.bucketCode s.engine := ((engineOk_iff s).mp ok).1

theorem bucketCount_pos (code : BitVec 2) : 0 < bucketCount code :=
  Nat.mul_pos (by decide) (Nat.two_pow_pos _)

theorem receiveOn_of_engineMayStart {station : StationState} (may : engineMayStart station = true) :
    receiveOn station = true := by
  revert may
  cases station <;> decide

/-- An engine that fits still does as receive goes on. -/
theorem EngineFits.of_on {station station' : StationState} {code : BitVec 2} {e : Engine}
    (fits : EngineFits station code e) (on : receiveOn station = true → receiveOn station' = true) :
    EngineFits station' code e := by
  obtain ⟨runs, rest⟩ := fits
  exact ⟨fun g b run => ⟨on (runs g b run).1, (runs g b run).2⟩, rest⟩

/-- A recompute that starts in a group that is not faulted (R139). -/
theorem startRecompute_engineOk {g : Group} {s : State} (on : receiveOn s.control.station = true)
    (sound : s.engine.fault[g] = false) : EngineOk (startRecompute g s) := by
  obtain ⟨ordered, weights⟩ := snapshotOf_ordered s.table.rows g
  refine (engineOk_iff _).mpr ⟨⟨fun h b run => ?_, rfl, ordered, weights⟩, fun idle => by cases idle⟩
  cases run
  exact ⟨on, sound, bucketCount_pos _⟩

/-- After a search the engine is not IDLE beside a group that it may take (R137, R138). -/
theorem search_engineOk {s : State} (fits : EngineFits s.control.station s.params.bucketCode s.engine) :
    EngineOk (search s) := by
  rcases search_cases s with same | ⟨g, -, may, taken, started⟩
  · rw [same]
    exact (engineOk_iff s).mpr ⟨fits, fun idle may => (search_idle (by rw [same]; exact idle) may).1⟩
  · rw [started]
    exact startRecompute_engineOk (receiveOn_of_engineMayStart may) (groupToTake_qualifies taken).2

/-- An engine that has stopped fits wherever it is (R114, R136). -/
theorem EngineFits.stopped {station : StationState} {code : BitVec 2} {e : Engine} (fits : EngineFits station code e)
    (pointer : Group) (retried fault : Vector Bool 4) :
    EngineFits station code { e with
      run := .idle, score := ScoreUnit.reset, pointer := pointer, retried := retried, fault := fault } := by
  obtain ⟨-, -, ordered, weights⟩ := fits
  exact ⟨nofun, rfl, ordered, weights⟩

/-- `EngineOk` reads the engine, the dirty flags, the station state and the bucket code, and nothing else. -/
theorem engineOk_of_eq {s t : State} (engine : t.engine = s.engine) (dirty : t.table.dirty = s.table.dirty)
    (station : t.control.station = s.control.station) (params : t.params = s.params) (ok : EngineOk s) :
    EngineOk t := by
  have taken : groupToTake t = groupToTake s := by
    unfold groupToTake
    rw [engine]
    congr 1
    funext g
    rw [qualifies, qualifies, engine, dirty]
  rw [engineOk_iff] at ok ⊢
  rwa [engine, station, params, taken]

theorem reset_engineOk {s : State} (engine : s.engine = Engine.reset) (loading : s.control.station = .loading) :
    EngineOk s := by
  refine (engineOk_iff s).mpr ⟨?_, fun _ may => by simp [loading, engineMayStart] at may⟩
  rw [engine]
  exact ⟨nofun, rfl, by simp [Engine.reset], by simp [Engine.reset]⟩

theorem writeHeld_engineOk {g : Group} {b : Bucket} {s : State} (runs : s.engine.run = .running g b)
    (ok : EngineOk s) : EngineOk (writeHeld g b s) := by
  have fits := ok.fits
  unfold writeHeld
  split
  next more =>
    obtain ⟨running, -, ordered, weights⟩ := fits
    obtain ⟨on, sound, -⟩ := running g b runs
    refine (engineOk_iff _).mpr ⟨⟨fun h b' run => ?_, rfl, ordered, weights⟩, fun idle => by cases idle⟩
    cases run
    exact ⟨on, sound, more.1⟩
  next => exact search_engineOk (fits.stopped g _ s.engine.fault)

theorem writeFailed_engineOk {g : Group} {b : Bucket} {s : State} (runs : s.engine.run = .running g b)
    (ok : EngineOk s) : EngineOk (writeFailed g s) := by
  have fits := ok.fits
  obtain ⟨on, sound, -⟩ := fits.1 g b runs
  unfold writeFailed mapFault retry
  split_ifs with retried may
  · exact search_engineOk (fits.stopped g s.engine.retried _)
  · exact startRecompute_engineOk on sound
  · refine (engineOk_iff _).mpr ⟨fits.stopped s.engine.pointer _ s.engine.fault, fun _ may' => absurd may' may⟩

/-- Every event that sets a dirty flag, frees the engine or changes the station state to one in which it may start ends
with a search. -/
theorem Event.keeps_engineOk {s t : State} (e : Event s t) (ok : EngineOk s) : EngineOk t := by
  have fits := ok.fits
  cases e with
  | portsMove | peerMoves => exact search_engineOk (by simpa [changePeer] using fits)
  | mutes settle dirty h => exact search_engineOk (fits.of_on fun _ => rfl)
  | quiets restart may => exact search_engineOk (by simpa using fits.of_on fun _ => rfl)
  | settles => exact search_engineOk (by simpa [markAllDirty] using fits.of_on fun _ => rfl)
  | parityFails g on =>
    refine search_engineOk ?_
    simp only [raiseEvents_control, raiseEvents_params, raiseEvents_engine, bump_control, bump_params, bump_engine]
    split_ifs
    · exact fits
    · exact fits
  | wakes quiet =>
    refine (engineOk_iff _).mpr ⟨by simpa using fits.of_on fun _ => rfl, fun _ may => ?_⟩
    simp [engineMayStart] at may
  | resets | powersOn => exact reset_engineOk rfl rfl
  | holds g b runs => exact writeHeld_engineOk runs ok
  | fails g b runs => exact writeFailed_engineOk runs ok
  | demands => exact engineOk_of_eq (by simp) (by simp) (by simp) (by simp) ok
  | _ => exact ok

/-- In LOADING the engine is IDLE, and at the end of loading it may not start. -/
theorem EndsLoading.keeps_engineOk {s t : State} (h : EndsLoading s t) (ok : EngineOk s) : EngineOk t := by
  obtain ⟨running, score, ordered, weights⟩ := ok.fits
  obtain ⟨loading, ends⟩ := h
  have idle : ∀ g b, s.engine.run ≠ .running g b := fun g b run => by
    simpa [loading, receiveOn] using (running g b run).1
  have engine : t.engine = s.engine := by
    obtain ⟨cause, left, rfl⟩ | ⟨record, rfl⟩ := ends <;> simp
  have waits : engineMayStart t.control.station = false := by
    obtain ⟨cause, left, rfl⟩ | ⟨record, rfl⟩ := ends
    · rfl
    · rw [enterJoining_control]
      rfl
  refine (engineOk_iff t).mpr ⟨?_, fun _ may => by simp [waits] at may⟩
  rw [engine]
  exact ⟨fun g b run => absurd run (idle g b), score, ordered, weights⟩

/-- Settles O58: after each event the engine has searched, or may not start, or nothing that it looks at has changed. -/
theorem stepKeepsEngine : Obligations.StepKeepsEngine := fun _ _ ok h =>
  step_keeps (fun _ ok => ok) (fun ok => ok) EndsLoading.keeps_engineOk Event.keeps_engineOk h ok

end Sys2Proof.Machine
end

section
/-! The lookup port, the line and its driver: what every step keeps of them (R51, R53, R61, R150, R153). -/

namespace Sys2Proof.Machine

/-! ### The lookup port -/

theorem lookupOk_of_eq {s t : State} (same : t.lookup = s.lookup) (ok : LookupOk s) : LookupOk t := by
  rwa [LookupOk, same]

@[simp] theorem writeHeld_lookup (g : Group) (b : Bucket) (s : State) : (writeHeld g b s).lookup = s.lookup := by
  unfold writeHeld
  split
  · rfl
  · exact flip_lookup g s

@[simp] theorem writeFailed_lookup (g : Group) (s : State) : (writeFailed g s).lookup = s.lookup := by
  unfold writeFailed retry
  split_ifs
  · exact mapFault_lookup g s
  · rfl
  · rfl

/-- A reset keeps the requests, and the head's entry read is taken again (R163). -/
theorem restartReset_lookupOk {s : State} (ok : LookupOk s) : LookupOk (restartReset s) := by
  obtain ⟨small, ready, -⟩ := ok
  refine ⟨small, ready, ?_⟩
  by_cases empty : s.lookup.fifo = [] <;> simp [restartReset, empty]

theorem Event.keeps_lookupOk {s t : State} (e : Event s t) (ok : LookupOk s) : LookupOk t := by
  cases e with
  | looksUp l h => exact h ok
  | resets => exact restartReset_lookupOk ok
  | powersOn => simp [LookupOk, powerOnReset, LookupPort.reset]
  | demands | portsMove | peerMoves | mutes | quiets | wakes | settles | holds | fails | parityFails =>
    exact lookupOk_of_eq (by simp [markAllDirty]) ok
  | _ => exact ok

theorem EndsLoading.lookup_eq {s t : State} (h : EndsLoading s t) : t.lookup = s.lookup := by
  obtain ⟨-, ⟨cause, left, rfl⟩ | ⟨record, rfl⟩⟩ := h <;> simp

/-! ### The line -/

theorem lineOk_of_eq {s t : State} (line : t.bus.line = s.bus.line) (recovery : t.bus.recovery = s.bus.recovery)
    (missed : t.bus.missed = s.bus.missed) (idleCount : t.bus.idleCount = s.bus.idleCount)
    (on : receiveOn s.control.station = true → receiveOn t.control.station = true) (ok : LineOk s) : LineOk t := by
  obtain ⟨busy, tracks, rest⟩ := ok
  unfold LineOk
  rw [line, recovery, missed, idleCount]
  exact ⟨busy, fun track => on (tracks track), rest⟩

theorem idleAfter_le (b : Bus) (cells : Nat) (small : b.idleCount ≤ 255) : idleAfter b cells ≤ 255 := by
  unfold idleAfter
  split_ifs
  · exact Nat.min_le_left 255 _
  · exact small

theorem passIdle_lineOk (cells : Nat) {s : State} (ok : LineOk s) : LineOk (passIdle cells s) := by
  obtain ⟨busy, tracks, missed, still, small⟩ := ok
  exact ⟨busy, tracks, missed, still, idleAfter_le s.bus cells small⟩

theorem tick_lineOk {s : State} (ok : LineOk s) : LineOk (tick s) := passIdle_lineOk 1 ok

/-- A bus with the line IDLE and the recovery in SEEK. -/
theorem seeking_lineOk {s : State} (line : s.bus.line = .idle) (recovery : s.bus.recovery = .seek)
    (missed : s.bus.missed = 0) (idleCount : s.bus.idleCount ≤ 255) : LineOk s := by
  simp [LineOk, line, recovery, missed, idleCount]

theorem Event.keeps_lineOk {s t : State} (e : Event s t) (ok : LineOk s) : LineOk t := by
  cases e with
  | hears boundary missed receiver h =>
    obtain ⟨busy, tracks, small, still, count⟩ := ok
    rcases h with rfl | ⟨track, few⟩
    · exact ⟨busy, tracks, small, still, count⟩
    · exact ⟨busy, tracks, few, fun seek => by simp [track] at seek, count⟩
  | lineBusy boundary receiver owed on =>
    exact ⟨iff_of_true rfl rfl, fun _ => on, Nat.zero_le 1, fun _ => rfl, ok.2.2.2.2⟩
  | lineIdle | resets | powersOn => exact seeking_lineOk rfl rfl rfl (Nat.zero_le _)
  | idlePasses cells => exact passIdle_lineOk cells ok
  | mutes | quiets | wakes | settles =>
    refine lineOk_of_eq ?_ ?_ ?_ ?_ ?_ ok <;> simp [markAllDirty, enterQuiet, wakeUp, cutQueue, emptyQueue, receiveOn]
  | demands | portsMove | peerMoves | holds | fails | parityFails =>
    refine lineOk_of_eq ?_ ?_ ?_ ?_ ?_ ok <;> simp [movePorts, movePeer, changePeer]
  | _ => exact ok

theorem EndsLoading.keeps_lineOk {s t : State} (h : EndsLoading s t) (ok : LineOk s) : LineOk t := by
  obtain ⟨loading, ⟨cause, left, rfl⟩ | ⟨record, rfl⟩⟩ := h
  · exact lineOk_of_eq (s := s) rfl rfl rfl rfl (by simp [loading, receiveOn]) ok
  · exact seeking_lineOk (by simp [enterJoining]) (by simp [enterJoining]) (by simp [enterJoining])
      (by simp [enterJoining])

/-! ### The driver -/

/-- A demand starts no attempt and ends none. -/
@[simp] theorem demand_inFlight_eq_none (d : Demand) (s : State) :
    (demand d s).bus.inFlight = none ↔ s.bus.inFlight = none := by
  rcases demand_cases d s with ⟨-, same⟩ | ⟨-, queued⟩
  · rw [same]
  · rw [queued]
    unfold queueDemand finalMark
    split_ifs <;> simp

@[simp] theorem demands_inFlight_eq_none (ds : List Demand) (s : State) :
    (demands ds s).bus.inFlight = none ↔ s.bus.inFlight = none := by
  induction ds generalizing s with
  | nil => exact Iff.rfl
  | cons d ds ih => exact (ih (demand d s)).trans (demand_inFlight_eq_none d s)

theorem driverOk_of_iff {s t : State} (driver : t.bus.driver = s.bus.driver)
    (flies : t.bus.inFlight = none ↔ s.bus.inFlight = none) (ok : DriverOk s) : DriverOk t := by
  rwa [DriverOk, driver, flies]

theorem Event.keeps_driverOk {s t : State} (e : Event s t) (ok : DriverOk s) : DriverOk t := by
  cases e with
  | starts place e => exact iff_of_false (fun driven => by cases driven) (fun none => by cases none)
  | ends | returns | resets | powersOn => exact iff_of_true rfl rfl
  | mutes => exact iff_of_true (by simp [cutQueue]) (by simp [cutQueue])
  | quiets | wakes | settles | demands | portsMove | peerMoves | holds | fails | parityFails =>
    refine driverOk_of_iff ?_ ?_ ok <;>
      simp [movePorts, movePeer, changePeer, enterQuiet, wakeUp, emptyQueue, finalMark, markAllDirty]
  | _ => exact ok

theorem EndsLoading.keeps_driverOk {s t : State} (h : EndsLoading s t) (ok : DriverOk s) : DriverOk t := by
  obtain ⟨-, ⟨cause, left, rfl⟩ | ⟨record, rfl⟩⟩ := h
  · exact ok
  · refine driverOk_of_iff ?_ ?_ ok <;> simp [enterJoining]

/-- Settles O59: requests come and go with the service and the ready output of what is left; the recovery and the line
change together; an attempt starts and ends with its driver. -/
theorem stepKeepsPorts : Obligations.StepKeepsPorts := fun _ _ lookup line driver h =>
  ⟨step_keeps (fun _ ok => ok) (fun ok => ok) (fun ends => lookupOk_of_eq ends.lookup_eq) Event.keeps_lookupOk h lookup,
    step_keeps (P := LineOk) (fun _ ok => ok) tick_lineOk EndsLoading.keeps_lineOk Event.keeps_lineOk h line,
    step_keeps (fun _ ok => ok) (fun ok => ok) EndsLoading.keeps_driverOk Event.keeps_driverOk h driver⟩

end Sys2Proof.Machine
end

section
/-! The transmit queue and station control: what every step keeps of them (R1, R9, R14, R68 to R72). -/

namespace Sys2Proof.Machine

/-! ### The demands of a change of ports or of a peer -/

/-- Demands look at the station state and at the bus. -/
theorem demands_bus_congr (ds : List Demand) {s u : State} (control : u.control = s.control) (bus : u.bus = s.bus) :
    (demands ds u).bus = (demands ds s).bus := by
  induction ds generalizing s u with
  | nil => exact bus
  | cons d ds ih =>
    refine ih (s := demand d s) (u := demand d u) (by simp [control]) ?_
    unfold demand
    rw [control]
    split_ifs
    · show queueDemand d u.bus = queueDemand d s.bus
      rw [bus]
    · exact bus

/-- The demands that port monitors make as they take new values (R31). -/
def portDemands (s : State) (ports : Vector Port 8) : List Demand :=
  (List.finRange 8).filterMap fun p => portDemand s.params.rampSteps.toNat s.ports[p] ports[p]

theorem movePorts_bus (ports : Vector Port 8) (rs : List Raise) (s : State) :
    (movePorts ports rs s).bus = (demands (portDemands s ports) s).bus := by
  rw [movePorts, search_bus, raiseEvents_bus]
  exact demands_bus_congr _ rfl rfl

theorem movePeer_bus (i : StationNo) (p : Peer) (ds : List Demand) (rs : List Raise) (s : State) :
    (movePeer i p ds rs s).bus = (demands ds s).bus := by
  rw [movePeer, search_bus, raiseEvents_bus]
  exact demands_bus_congr _ rfl rfl

theorem portDemand_ne_leave {r : Nat} {old new : Port} {d : Demand} (h : portDemand r old new = some d) :
    d ≠ .leave := by
  unfold portDemand at h
  split_ifs at h <;> (cases h; decide)

theorem portDemands_ne_leave (s : State) (ports : Vector Port 8) : ∀ d ∈ portDemands s ports, d ≠ .leave := by
  intro d hd
  obtain ⟨p, -, asked⟩ := List.mem_filterMap.mp hd
  exact portDemand_ne_leave asked

/-! ### The transmit queue -/

/-- An entry that the queue may hold, or that may fly (R68). -/
def EntryOk (e : QueueEntry) : Prop := e.attempts ≤ 7 ∧ (e.urgent = true → e.kind = .report)

/-- What the queue is while a notice flies (R68, R69). -/
def FlightOk (queue : List QueueEntry) (inFlight : Option InFlight) : Prop :=
  ∀ f ∈ inFlight, EntryOk f.entry ∧ (f.entry.kind = .leave → f.final = false → queue = [])

/-- No two entries of a kind, and a LEAVE alone (R68). -/
def EntriesOk (queue : List QueueEntry) : Prop :=
  (queue.map QueueEntry.kind).Nodup ∧ (∀ e ∈ queue, EntryOk e) ∧ ∀ e ∈ queue, e.kind = .leave → queue.length = 1

/-- There are three kinds beside the LEAVE, so the bound on the length follows. -/
theorem EntriesOk.length_le {queue : List QueueEntry} (ok : EntriesOk queue) : queue.length ≤ 3 := by
  obtain ⟨nodup, -, alone⟩ := ok
  by_cases leave : ∃ e ∈ queue, e.kind = .leave
  · obtain ⟨e, he, kind⟩ := leave
    rw [alone e he kind]
    decide
  · have three : queue.map QueueEntry.kind ⊆ [.join, .report, .solicit] := by
      intro k hk
      obtain ⟨e, he, rfl⟩ := List.mem_map.mp hk
      cases kind : e.kind with
      | leave => exact absurd ⟨e, he, kind⟩ leave
      | join | report | solicit => simp
    simpa using (List.subperm_of_subset nodup three).length_le

theorem queueOk_iff (s : State) : QueueOk s ↔ EntriesOk s.bus.queue ∧ FlightOk s.bus.queue s.bus.inFlight := by
  constructor
  · rintro ⟨nodup, -, entries, flight⟩
    exact ⟨⟨nodup, fun e he => ⟨(entries e he).1, (entries e he).2.1⟩, fun e he => (entries e he).2.2⟩,
      fun f hf => ⟨⟨(flight f hf).1, (flight f hf).2.1⟩, (flight f hf).2.2⟩⟩
  · rintro ⟨ok, flight⟩
    have small := ok.length_le
    obtain ⟨nodup, entries, alone⟩ := ok
    exact ⟨nodup, small, fun e he => ⟨(entries e he).1, (entries e he).2, alone e he⟩,
      fun f hf => ⟨(flight f hf).1.1, (flight f hf).1.2, (flight f hf).2⟩⟩

theorem queueOk_of_eq {s t : State} (queue : t.bus.queue = s.bus.queue) (flies : t.bus.inFlight = s.bus.inFlight)
    (ok : QueueOk s) : QueueOk t := by
  rwa [QueueOk, queue, flies]

theorem leaveStands_eq_false {b : Bus} :
    leaveStands b = false ↔
      (∀ e ∈ b.queue, e.kind ≠ .leave) ∧ ∀ f ∈ b.inFlight, f.entry.kind = .leave → f.final = true := by
  unfold leaveStands
  rw [Bool.or_eq_false_iff, List.any_eq_false]
  refine and_congr (by simp) ?_
  cases b.inFlight <;> simp

theorem EntriesOk.nil : EntriesOk [] := by simp [EntriesOk]

/-- A new entry alone. -/
theorem EntriesOk.single (kind : EntryKind) : EntriesOk [{ kind := kind, urgent := false, attempts := 0 }] := by
  simp [EntriesOk, EntryOk]

/-- The final mark frees a notice in flight of what a LEAVE asks of the queue (R71). -/
theorem FlightOk.final {queue queue' : List QueueEntry} {inFlight : Option InFlight} (ok : FlightOk queue inFlight) :
    FlightOk queue' (finalMark inFlight) := by
  intro f hf
  obtain ⟨f', hf', rfl⟩ := Option.map_eq_some_iff.mp hf
  exact ⟨(ok f' hf').1, fun _ unmarked => by cases unmarked⟩

/-- A demand merges into the entry of its kind, or joins the others (R69). -/
theorem mergeDemand_ok {d : Demand} (h : d ≠ .leave) {queue : List QueueEntry} (ok : EntriesOk queue)
    (none : ∀ e ∈ queue, e.kind ≠ .leave) : EntriesOk (mergeDemand d queue) := by
  obtain ⟨nodup, entries, -⟩ := ok
  have kind : demandKind d ≠ .leave := by
    revert h
    cases d <;> decide
  have urgent : (d == .alert) = true → demandKind d = .report := by
    cases d <;> decide
  unfold mergeDemand
  split_ifs with stands
  · have kinds : ∀ e : QueueEntry,
        (if e.kind = demandKind d then { e with urgent := e.urgent || d == .alert } else e).kind = e.kind := by
      intro e
      split_ifs <;> rfl
    refine ⟨by simpa [List.map_map, Function.comp_def, kinds] using nodup, fun e he => ?_, fun e he leave => ?_⟩
    · obtain ⟨e', he', rfl⟩ := List.mem_map.mp he
      obtain ⟨attempts, marked⟩ := entries e' he'
      split_ifs with same
      · refine ⟨attempts, fun mark => ?_⟩
        rcases Bool.or_eq_true_iff.mp mark with mark | mark
        · exact marked mark
        · exact same.trans (urgent mark)
      · exact ⟨attempts, marked⟩
    · obtain ⟨e', he', rfl⟩ := List.mem_map.mp he
      exact absurd ((kinds e').symm.trans leave) (none e' he')
  · have new : ∀ e ∈ queue, e.kind ≠ demandKind d := by simpa using stands
    refine ⟨?_, fun e he => ?_, fun e he leave => ?_⟩
    · rw [List.map_append, List.nodup_append]
      refine ⟨nodup, by simp, fun k hk k' hk' => ?_⟩
      obtain ⟨e, he, rfl⟩ := List.mem_map.mp hk
      rw [List.mem_singleton.mp hk']
      exact new e he
    · rcases List.mem_append.mp he with he | he
      · exact entries e he
      · rw [List.mem_singleton.mp he]
        exact ⟨Nat.zero_le 7, urgent⟩
    · rcases List.mem_append.mp he with he | he
      · exact absurd leave (none e he)
      · rw [List.mem_singleton.mp he] at leave
        exact absurd leave kind

theorem demand_queueOk {d : Demand} (h : d ≠ .leave) {s : State} (ok : QueueOk s) : QueueOk (demand d s) := by
  rcases demand_cases d s with ⟨-, same⟩ | ⟨-, queued⟩
  · rwa [same]
  · rw [queueOk_iff] at ok ⊢
    obtain ⟨entries, flight⟩ := ok
    rw [queued]
    unfold queueDemand
    rw [if_neg h]
    split_ifs with stands
    · exact ⟨entries, flight⟩
    · obtain ⟨none, marked⟩ := leaveStands_eq_false.mp (by simpa using stands)
      refine ⟨mergeDemand_ok h entries none, fun f hf => ⟨(flight f hf).1, fun leave unmarked => ?_⟩⟩
      exact absurd (marked f hf leave) (by simp [unmarked])

theorem demands_queueOk {ds : List Demand} (h : ∀ d ∈ ds, d ≠ .leave) {s : State} (ok : QueueOk s) :
    QueueOk (demands ds s) := by
  induction ds generalizing s with
  | nil => exact ok
  | cons d ds ih => exact ih (fun d' hd => h d' (by simp [hd])) (demand_queueOk (h d (by simp)) ok)

/-- The entry at the head leaves a queue that is still in order, empty where it was the LEAVE (R63). -/
theorem eraseIdx_ok {queue : List QueueEntry} {place : Nat} {e : QueueEntry} (ok : EntriesOk queue)
    (head : queue[place]? = some e) :
    EntriesOk (queue.eraseIdx place) ∧ EntryOk e ∧ (e.kind = .leave → queue.eraseIdx place = []) := by
  obtain ⟨nodup, entries, alone⟩ := ok
  have he : e ∈ queue := List.mem_of_getElem? head
  obtain ⟨inside, -⟩ := List.getElem?_eq_some_iff.mp head
  have sub := List.eraseIdx_sublist queue place
  have short : ∀ e' ∈ queue, e'.kind = .leave → queue.eraseIdx place = [] := by
    intro e' he' leave
    refine List.eq_nil_of_length_eq_zero ?_
    rw [List.length_eraseIdx_of_lt inside, alone e' he' leave]
  refine ⟨⟨nodup.sublist (sub.map _), fun e' he' => entries e' (sub.subset he'), fun e' he' leave => ?_⟩,
    entries e he, short e he⟩
  rw [short e' (sub.subset he') leave] at he'
  cases he'

theorem EntriesOk.of_perm {queue queue' : List QueueEntry} (perm : queue'.Perm queue) (ok : EntriesOk queue) :
    EntriesOk queue' := by
  obtain ⟨nodup, entries, alone⟩ := ok
  exact ⟨(perm.map _).nodup_iff.mpr nodup, fun e he => entries e (perm.mem_iff.mp he),
    fun e he leave => perm.length_eq.trans (alone e (perm.mem_iff.mp he) leave)⟩

/-- An aborted notice comes back among entries of other kinds (R72). -/
theorem returnToQueue_ok {f : InFlight} {queue : List QueueEntry} (ok : EntriesOk queue) (entry : EntryOk f.entry)
    (again : f.entry.attempts + 1 < 8) (empty : f.entry.kind = .leave → queue = []) :
    EntriesOk (returnToQueue f queue) := by
  obtain ⟨nodup, entries, alone⟩ := ok
  unfold returnToQueue
  split_ifs with leave
  · exact ⟨nodup, entries, alone⟩
  · have none : ∀ e ∈ queue, e.kind ≠ .leave := by simpa using leave
    have returned : EntryOk (returnedEntry f queue) := by
      refine ⟨Nat.le_of_lt_succ again, fun mark => ?_⟩
      rcases Bool.or_eq_true_iff.mp mark with mark | mark
      · exact entry.2 mark
      · obtain ⟨e, he, both⟩ := List.any_eq_true.mp mark
        rw [Bool.and_eq_true, beq_iff_eq] at both
        exact both.1.symm.trans ((entries e he).2 both.2)
    refine EntriesOk.of_perm (List.perm_insertIdx _ _ (Nat.min_le_right _ _)) ⟨?_, fun e he => ?_, fun e he leave => ?_⟩
    · rw [List.map_cons, List.nodup_cons]
      refine ⟨fun clash => ?_, nodup.sublist (List.filter_sublist.map _)⟩
      obtain ⟨e, he, same⟩ := List.mem_map.mp clash
      simpa [same, returnedEntry] using (List.mem_filter.mp he).2
    · rcases List.mem_cons.mp he with rfl | he
      · exact returned
      · exact entries e (List.mem_of_mem_filter he)
    · rcases List.mem_cons.mp he with rfl | he
      · simp [empty leave]
      · exact absurd leave (none e (List.mem_of_mem_filter he))

@[simp] theorem finalMark_finalMark (inFlight : Option InFlight) :
    finalMark (finalMark inFlight) = finalMark inFlight := by
  cases inFlight <;> rfl

/-- Entry to QUIET leaves a LEAVE alone in the queue (R11, R71). -/
theorem enterQuiet_bus (restart : Bool) (s : State) :
    (enterQuiet restart s).bus = { s.bus with
      queue := [{ kind := .leave, urgent := false, attempts := 0 }], inFlight := finalMark s.bus.inFlight } := by
  simp [enterQuiet, demand, demandKind, transmitAllowed, queueDemand, emptyQueue]

/-- WAKE leaves a JOIN alone in the queue (R12, R71). -/
theorem wakeUp_bus (s : State) :
    (wakeUp s).bus = { s.bus with
      queue := [{ kind := .join, urgent := false, attempts := 0 }], inFlight := finalMark s.bus.inFlight } := by
  have free : leaveStands (emptyQueue s.bus) = false := by
    refine leaveStands_eq_false.mpr ⟨by simp [emptyQueue], fun f hf _ => ?_⟩
    obtain ⟨f', -, rfl⟩ := Option.map_eq_some_iff.mp hf
    rfl
  have kind : (Demand.join == .alert) = false := rfl
  simp only [emptyQueue] at free
  simp [wakeUp, demand, demandKind, transmitAllowed, queueDemand, free, mergeDemand, emptyQueue, kind]

@[simp] theorem writeHeld_params (g : Group) (b : Bucket) (s : State) : (writeHeld g b s).params = s.params := by
  unfold writeHeld
  split
  · rfl
  · exact flip_params g s

theorem Event.keeps_queueOk {s t : State} (e : Event s t) (ok : QueueOk s) : QueueOk t := by
  have entries := ((queueOk_iff s).mp ok).1
  have flight := ((queueOk_iff s).mp ok).2
  cases e with
  | demands d h => exact demand_queueOk h ok
  | portsMove ports rs on h =>
    have bus := movePorts_bus ports rs s
    exact queueOk_of_eq (congrArg _ bus) (congrArg _ bus) (demands_queueOk (portDemands_ne_leave s ports) ok)
  | peerMoves i p ds rs on other still h hd =>
    have bus := movePeer_bus i p ds rs s
    exact queueOk_of_eq (congrArg _ bus) (congrArg _ bus) (demands_queueOk hd ok)
  | starts place e head may =>
    obtain ⟨left, entry, alone⟩ := eraseIdx_ok entries head
    refine (queueOk_iff _).mpr ⟨left, fun f hf => ?_⟩
    cases hf
    exact ⟨entry, fun leave _ => alone leave⟩
  | ends => exact (queueOk_iff _).mpr ⟨entries, nofun⟩
  | returns f owed flies again unmarked =>
    obtain ⟨entry, empty⟩ := flight f flies
    exact (queueOk_iff _).mpr ⟨returnToQueue_ok entries entry again fun leave => empty leave unmarked, nofun⟩
  | mutes => exact (queueOk_iff _).mpr ⟨by simpa [cutQueue] using EntriesOk.nil, by simp [cutQueue, FlightOk]⟩
  | quiets => exact (queueOk_iff _).mpr (by rw [enterQuiet_bus]; exact ⟨.single .leave, flight.final⟩)
  | wakes => exact (queueOk_iff _).mpr (by rw [wakeUp_bus]; exact ⟨.single .join, flight.final⟩)
  | resets | powersOn => exact (queueOk_iff _).mpr ⟨.nil, nofun⟩
  | settles | holds | fails | parityFails => exact queueOk_of_eq (by simp [markAllDirty]) (by simp [markAllDirty]) ok
  | _ => exact ok

theorem EndsLoading.keeps_queueOk {s t : State} (h : EndsLoading s t) (ok : QueueOk s) : QueueOk t := by
  obtain ⟨-, ⟨cause, left, rfl⟩ | ⟨record, rfl⟩⟩ := h
  · exact ok
  · exact demand_queueOk (by decide) ok

/-! ### Station control -/

theorem controlOk_of_eq {s t : State} (control : t.control = s.control)
    (bus : s.control.station = .quiet → t.bus.queue = s.bus.queue ∧ t.bus.inFlight = s.bus.inFlight)
    (ok : ControlOk s) : ControlOk t := by
  obtain ⟨settle, cause, pending, marked⟩ := ok
  unfold ControlOk
  rw [control]
  refine ⟨settle, cause, fun waits => ?_, fun quiet => ?_⟩
  · obtain ⟨quiet, stands⟩ := pending waits
    refine ⟨quiet, ?_⟩
    rwa [leaveStands, (bus quiet).1, (bus quiet).2]
  · rw [(bus quiet).1, (bus quiet).2]
    exact marked quiet

/-- In QUIET the LEAVE alone is demanded (R1). -/
theorem demand_of_quiet {d : Demand} (h : d ≠ .leave) {s : State} (quiet : s.control.station = .quiet) :
    demand d s = s := by
  have dropped : transmitAllowed s.control.station (demandKind d) = false := by
    rw [quiet]
    revert h
    cases d <;> decide
  rw [demand, dropped, if_neg Bool.false_ne_true]

theorem demands_of_quiet {ds : List Demand} (h : ∀ d ∈ ds, d ≠ .leave) {s : State}
    (quiet : s.control.station = .quiet) : demands ds s = s := by
  induction ds with
  | nil => rfl
  | cons d ds ih =>
    show demands ds (demand d s) = s
    rw [demand_of_quiet (h d (by simp)) quiet, ih fun d' hd => h d' (by simp [hd])]

@[simp] theorem isRunning_tickTimer (t : Timer) : isRunning (tickTimer t) = isRunning t := by cases t <;> rfl

theorem tick_controlOk {s : State} (ok : ControlOk s) : ControlOk (tick s) := by
  simpa [ControlOk, tick, leaveStands] using ok

theorem leaveStands_of_queue {b : Bus} (stands : b.queue.any (fun e => e.kind == .leave) = true) :
    leaveStands b = true := by
  rw [leaveStands, stands, Bool.true_or]

/-- Where a LEAVE stands and none flies unmarked, it is queued. -/
theorem leave_queued {b : Bus} {f : InFlight} (stands : leaveStands b = true) (flies : b.inFlight = some f)
    (h : ¬ (f.entry.kind = .leave ∧ f.final = false)) : b.queue.any (fun e => e.kind == .leave) = true := by
  unfold leaveStands at stands
  rw [flies, Bool.or_eq_true] at stands
  exact stands.resolve_right fun marked => h (by simpa using marked)

/-- A LEAVE that comes back from an attempt is queued (R72). -/
theorem returnToQueue_leave {f : InFlight} {queue : List QueueEntry}
    (h : queue.any (fun e => e.kind == .leave) = true ∨ f.entry.kind = .leave) :
    (returnToQueue f queue).any (fun e => e.kind == .leave) = true := by
  unfold returnToQueue
  split_ifs with stands
  · exact stands
  · have leave := h.resolve_left stands
    refine List.any_eq_true.mpr ⟨returnedEntry f queue, ?_, by simpa [returnedEntry] using leave⟩
    exact (List.perm_insertIdx _ _ (Nat.min_le_right _ _)).mem_iff.mpr (List.mem_cons_self ..)

/-- Control in a state in which no restart waits and no LEAVE is called for. -/
theorem controlOk_of_active {s : State} (settle : isRunning s.control.settle = true ↔ s.control.station = .joining)
    (cause : s.control.cause.isSome = true ↔ s.control.station = .configFault)
    (none : s.control.restartPending = false) (active : s.control.station ≠ .quiet) : ControlOk s :=
  ⟨settle, cause, fun waits => by simp [none] at waits, fun quiet => absurd quiet active⟩

theorem ControlOk.none_pending {s : State} (ok : ControlOk s) (active : s.control.station ≠ .quiet) :
    s.control.restartPending = false := by
  by_contra waits
  exact active (ok.2.2.1 (by simpa using waits)).1

theorem ControlOk.no_cause {s : State} (ok : ControlOk s) (sound : s.control.station ≠ .configFault) :
    s.control.cause = none := by
  have := mt ok.2.1.mp sound
  simpa using this

/-- What a notice in flight leaves of a waiting restart as it goes: its LEAVE still stands in the queue. -/
theorem controlOk_of_ended {s t : State} (control : t.control = s.control) (landed : t.bus.inFlight = none)
    (queue : leaveStands s.bus = true → s.control.restartPending = true →
      t.bus.queue.any (fun e => e.kind == .leave) = true) (ok : ControlOk s) : ControlOk t := by
  obtain ⟨settle, cause, pending, -⟩ := ok
  unfold ControlOk
  rw [control, landed]
  refine ⟨settle, cause, fun waits => ?_, nofun⟩
  obtain ⟨quiet, stands⟩ := pending waits
  exact ⟨quiet, leaveStands_of_queue (queue stands waits)⟩

theorem Event.keeps_controlOk {s t : State} (e : Event s t) (ok : ControlOk s) : ControlOk t := by
  have settled := ok.1
  have marked := ok.2.2.2
  cases e with
  | demands d h => exact controlOk_of_eq (by simp) (fun quiet => by rw [demand_of_quiet h quiet]; simp) ok
  | portsMove ports rs on h =>
    refine controlOk_of_eq (by simp) (fun quiet => ?_) ok
    rw [movePorts_bus, demands_of_quiet (portDemands_ne_leave s ports) quiet]
    exact ⟨rfl, rfl⟩
  | peerMoves i p ds rs on other still h hd =>
    refine controlOk_of_eq (by simp) (fun quiet => ?_) ok
    rw [movePeer_bus, demands_of_quiet hd quiet]
    exact ⟨rfl, rfl⟩
  | starts place e head may =>
    obtain ⟨settle, cause, pending, -⟩ := ok
    refine ⟨settle, cause, fun waits => ⟨(pending waits).1, ?_⟩, fun _ f hf final => ?_⟩
    · have leave : e.kind = .leave := by
        simpa [mayStart, (pending waits).1, transmitAllowed] using
          (show transmitAllowed s.control.station e.kind = true by
            simp only [mayStart, Bool.and_eq_true] at may
            exact may.1.1.1)
      simp [leaveStands, beginAttempt, leave]
    · cases hf
      cases final
  | ends f owed flies h =>
    refine controlOk_of_ended (s := s) rfl rfl (fun stands waits => ?_) ok
    refine leave_queued (b := s.bus) stands flies fun unmarked => ?_
    exact h.elim (fun final => by simp [final] at unmarked) fun other => other ⟨unmarked.1, waits⟩
  | returns f owed flies again unmarked =>
    refine controlOk_of_ended (s := s) rfl rfl (fun stands waits => returnToQueue_leave ?_) ok
    by_cases leave : f.entry.kind = .leave
    · exact .inr leave
    · exact .inl (leave_queued stands flies fun both => leave both.1)
  | mutes settle dirty h =>
    refine controlOk_of_active ?_ ?_ ?_ ?_
    · rw [search_control]
      rcases h with ⟨-, rfl⟩ | ⟨rfl, operating | ⟨quiet, -⟩⟩
      · simp [isRunning]
      · simp [settled, operating]
      · simp [settled, quiet]
    · rw [search_control]
      have : s.control.station ≠ .configFault := by
        rcases h with ⟨joining, -⟩ | ⟨-, operating | ⟨quiet, -⟩⟩ <;> simp [*]
      simp [ok.no_cause this]
    · rw [search_control]
      rcases h with ⟨joining, -⟩ | ⟨-, operating | ⟨-, none⟩⟩
      · exact ok.none_pending (by simp [joining])
      · exact ok.none_pending (by simp [operating])
      · exact none
    · simp
  | quiets restart may =>
    have : s.control.station ≠ .configFault := fun fault => by simp [fault, mayGoQuiet] at may
    unfold ControlOk
    rw [enterQuiet_bus, enterQuiet_control]
    simp [isRunning, ok.no_cause this, leaveStands]
  | wakes quiet none =>
    refine controlOk_of_active ?_ ?_ ?_ ?_ <;> rw [wakeUp_control]
    · simp [settleTime, isRunning]
    · simp [ok.no_cause (by simp [quiet])]
    · exact none
    · simp
  | restartWaits quiet remains =>
    obtain ⟨settle, cause, -, -⟩ := ok
    refine ⟨settle, cause, fun _ => ⟨quiet, ?_⟩, marked⟩
    unfold leaveRemains at remains
    rcases Bool.or_eq_true_iff.mp remains with queued | flies
    · exact leaveStands_of_queue queued
    · cases hf : s.bus.inFlight with
      | none => simp [hf] at flies
      | some f =>
        cases final : f.final with
        | true => exact leaveStands_of_queue (marked quiet f hf final)
        | false =>
          rw [hf] at flies
          simp [leaveStands, hf, final, flies]
  | settles joining =>
    refine controlOk_of_active ?_ ?_ ?_ ?_ <;> simp only [search_control, markAllDirty]
    · simp [isRunning]
    · simp [ok.no_cause (by simp [joining])]
    · exact ok.none_pending (by simp [joining])
    · simp
  | resets | powersOn =>
    exact controlOk_of_active (iff_of_false nofun nofun) (iff_of_false nofun nofun) rfl nofun
  | holds | fails | parityFails => exact controlOk_of_eq (by simp) (fun _ => by simp) ok
  | _ => exact ok

theorem EndsLoading.keeps_controlOk {s t : State} (h : EndsLoading s t) (ok : ControlOk s) : ControlOk t := by
  obtain ⟨loading, ⟨cause, left, rfl⟩ | ⟨record, rfl⟩⟩ := h
  · have stopped : isRunning s.control.settle ≠ true := mt ok.1.mp (by simp [loading])
    refine controlOk_of_active (iff_of_false stopped ?_) (iff_of_true rfl rfl) (ok.none_pending (by simp [loading])) ?_
    · exact fun joining => by cases joining
    · exact fun quiet => by cases quiet
  · have none : s.control.restartPending = false := ok.none_pending (by simp [loading])
    have sound : s.control.cause = .none := ok.no_cause (by simp [loading])
    refine controlOk_of_active ?_ ?_ ?_ ?_ <;> rw [enterJoining_control]
    · simp [settleTime, isRunning]
    · simp [handOut, sound]
    · exact none
    · simp

/-- Settles O55: demands, attempts and aborts keep entries of different kinds with a LEAVE alone, and a restart waits
for a LEAVE that goes back to the queue whenever its attempt does not end it. -/
theorem stepKeepsQueueAndControl : Obligations.StepKeepsQueueAndControl := fun _ _ h =>
  ⟨step_keeps (P := QueueOk) (fun _ ok => ok) (fun ok => ok) EndsLoading.keeps_queueOk Event.keeps_queueOk h,
    step_keeps (P := ControlOk) (fun _ ok => ok) tick_controlOk EndsLoading.keeps_controlOk Event.keeps_controlOk h⟩

end Sys2Proof.Machine
end

section
/-! The port monitors, the error grader and the blocks that receive has not started: what every step keeps of them (R15,
R18, R21, R35, R47, R93). -/

namespace Sys2Proof.Machine

/-! ### The port monitors -/

theorem portsOk_of_eq {s t : State} (ports : t.ports = s.ports) (params : t.params = s.params) (ok : PortsOk s) :
    PortsOk t := by
  rwa [PortsOk, ports, params]

theorem PortOk.reset (r : Nat) : PortOk r Port.reset := by
  simp [PortOk, Port.reset, isRunning]

theorem portsOk_of_reset {s : State} (ports : s.ports = Vector.replicate 8 Port.reset) (params : s.params = Params.reset) :
    PortsOk s := by
  rw [PortsOk, ports, params]
  exact ⟨Nat.zero_le 8, fun p => by simpa using PortOk.reset _⟩

theorem PortOk.ticked {r : Nat} {p : Port} (ok : PortOk r p) : PortOk r (tickPort p) := by
  simpa [PortOk, tickPort] using ok

theorem tick_portsOk {s : State} (ok : PortsOk s) : PortsOk (tick s) :=
  ⟨ok.1, fun p => by simpa [tick] using (ok.2 p).ticked⟩

theorem writeFailed_ports (g : Group) (s : State) : (writeFailed g s).ports = s.ports := by
  unfold writeFailed retry
  split_ifs <;> simp

@[simp] theorem writeFailed_params (g : Group) (s : State) : (writeFailed g s).params = s.params := by
  unfold writeFailed retry
  split_ifs <;> simp

theorem writeHeld_ports (g : Group) (b : Bucket) (s : State) : (writeHeld g b s).ports = s.ports := by
  unfold writeHeld
  split
  · rfl
  · exact flip_ports g s

theorem Event.keeps_portsOk {s t : State} (e : Event s t) (ok : PortsOk s) : PortsOk t := by
  cases e with
  | samples p los seen on =>
    exact ⟨ok.1, fun q => portOk_set (fun _ => (ok.2 p).sampled los seen) q (ok.2 q)⟩
  | portsMove ports rs on h =>
    rw [PortsOk, movePorts_ports, movePorts_params]
    exact ⟨ok.1, fun p => h p (ok.2 p)⟩
  | resets | powersOn => exact portsOk_of_reset rfl rfl
  | demands | peerMoves | mutes | quiets | wakes | settles | parityFails =>
    exact portsOk_of_eq (by simp [markAllDirty]) (by simp [markAllDirty]) ok
  | holds => exact portsOk_of_eq (writeHeld_ports _ _ _) (writeHeld_params _ _ _) ok
  | fails => exact portsOk_of_eq (writeFailed_ports _ _) (writeFailed_params _ _) ok
  | _ => exact ok

/-! ### What a record hands to the monitors -/

theorem clampByte_toNat {low high : Byte} (h : low ≤ high) (value : Byte) :
    (clampByte low high value).toNat = min high.toNat (max low.toNat value.toNat) := by
  unfold clampByte
  split_ifs <;> bv_omega

theorem recordWeight_ne_zero {byte : Byte} (enabled : byte.getLsbD 7 = true) : recordWeight byte ≠ 0 := by
  unfold recordWeight
  rw [enabled]
  split_ifs with zero
  · decide
  · simpa using zero

theorem startedPort_ok (r : Nat) (byte : Byte) (los : Bool) : PortOk r (startedPort byte los) := by
  cases enabled : byte.getLsbD 7 with
  | true =>
    have weight := recordWeight_ne_zero enabled
    simp only [startedPort, recordPort, Port.reset, enabled, if_true, PortOk, isRunning]
    exact ⟨by simp, by simp, by simp, by simp, fun _ => ⟨weight, by simp⟩, by simp⟩
  | false =>
    simp only [startedPort, recordPort, Port.reset, enabled, PortOk, isRunning]
    simp

theorem enterJoining_handOut_portsOk (record : Vector Byte 28) (s : State) : PortsOk (enterJoining (handOut record s)) := by
  rw [PortsOk, enterJoining_ports, enterJoining_params]
  refine ⟨?_, fun p => by simpa [handOut, startedPorts] using startedPort_ok _ _ _⟩
  show (clampByte 1 8 record[14]).toNat ≤ 8
  rw [clampByte_toNat (by decide)]
  exact Nat.min_le_left 8 _

theorem EndsLoading.keeps_portsOk {s t : State} (h : EndsLoading s t) (ok : PortsOk s) : PortsOk t := by
  obtain ⟨-, ⟨cause, left, rfl⟩ | ⟨record, rfl⟩⟩ := h
  · exact ok
  · exact enterJoining_handOut_portsOk record s

/-! ### The error grader -/

theorem gradersOk_of_eq {s t : State} (graders : t.graders = s.graders) (ports : t.ports = s.ports)
    (params : t.params = s.params) (ok : GradersOk s) : GradersOk t := by
  rwa [GradersOk, graders, ports, params]

theorem gradersOk_of_reset {s : State} (graders : s.graders = Vector.replicate 8 Grader.reset)
    (windows : 1 ≤ s.params.cleanWindows.toNat) : GradersOk s := by
  rw [GradersOk, graders]
  refine ⟨windows, fun p => ?_⟩
  have zero : (Vector.replicate 8 Grader.reset)[p].clean = 0 := by simp [Grader.reset]
  rw [zero]
  exact ⟨windows, fun _ => rfl⟩

/-- The clean counts follow the ports as they move (R35, R47). -/
theorem movePorts_gradersOk (ports : Vector Port 8) (rs : List Raise) {s : State} (ok : GradersOk s) :
    GradersOk (movePorts ports rs s) := by
  obtain ⟨windows, clean⟩ := ok
  rw [GradersOk, movePorts_graders, movePorts_ports, movePorts_params]
  refine ⟨windows, fun p => ?_⟩
  rw [Fin.getElem_fin, Vector.getElem_ofFn]
  show (graderAfter ports[p] s.graders[p]).clean < _ ∧ (ports[p].condition ≠ .degraded →
    (graderAfter ports[p] s.graders[p]).clean = 0)
  unfold graderAfter
  split_ifs with degraded
  · exact ⟨(clean p).1, fun other => absurd degraded other⟩
  · exact ⟨windows, fun _ => rfl⟩

theorem writeFailed_graders (g : Group) (s : State) : (writeFailed g s).graders = s.graders := by
  unfold writeFailed retry
  split_ifs <;> simp

theorem writeHeld_graders (g : Group) (b : Bucket) (s : State) : (writeHeld g b s).graders = s.graders := by
  unfold writeHeld
  split
  · rfl
  · exact flip_graders g s

theorem gradersOk_of_conditions {s t : State} (graders : t.graders = s.graders)
    (conditions : ∀ p : PortNo, t.ports[p].condition = s.ports[p].condition) (params : t.params = s.params)
    (ok : GradersOk s) : GradersOk t := by
  rw [GradersOk, graders, params]
  exact ⟨ok.1, fun p => by rw [conditions p]; exact ok.2 p⟩

/-- One port is replaced by one that a function of ports does not tell apart from it. -/
theorem set_congr {α β : Type} {n : Nat} {v : Vector α n} {i : Fin n} {x : α} (f : α → β) (h : f x = f v[i]) (j : Fin n) :
    f (v.set i x)[j] = f v[j] := by
  by_cases same : j = i
  · subst same
    simpa using h
  · have other : (i : Nat) ≠ j := fun h => same (Fin.ext h.symm)
    simp [Vector.getElem_set_ne, other]

theorem Event.keeps_gradersOk {s t : State} (e : Event s t) (ok : GradersOk s) : GradersOk t := by
  cases e with
  | grades graders on h =>
    obtain ⟨windows, clean⟩ := ok
    refine ⟨windows, fun p => ?_⟩
    rcases h p with same | zero | ⟨degraded, below⟩
    · rw [same]
      exact clean p
    · rw [zero]
      exact ⟨windows, fun _ => rfl⟩
    · exact ⟨below, fun other => absurd degraded other⟩
  | samples p los seen on => exact gradersOk_of_conditions (s := s) rfl (set_congr Port.condition rfl) rfl ok
  | portsMove ports rs on h => exact movePorts_gradersOk ports rs ok
  | resets | powersOn => exact gradersOk_of_reset rfl (by decide : 1 ≤ Params.reset.cleanWindows.toNat)
  | demands | peerMoves | mutes | quiets | wakes | settles | parityFails =>
    exact gradersOk_of_eq (by simp [markAllDirty]) (by simp [markAllDirty]) (by simp [markAllDirty]) ok
  | holds => exact gradersOk_of_eq (writeHeld_graders _ _ _) (writeHeld_ports _ _ _) (writeHeld_params _ _ _) ok
  | fails => exact gradersOk_of_eq (writeFailed_graders _ _) (writeFailed_ports _ _) (writeFailed_params _ _) ok
  | _ => exact ok

theorem tick_gradersOk {s : State} (ok : GradersOk s) : GradersOk (tick s) :=
  gradersOk_of_conditions (s := s) rfl (fun p => by simp [tick, tickPort]) rfl ok

/-- At the end of loading the graders are those of a reset (R5, R36). -/
theorem EndsLoading.keeps_gradersOk {s t : State} (h : EndsLoading s t) (dormant : DormantOk s) (ok : GradersOk s) :
    GradersOk t := by
  obtain ⟨loading, ⟨cause, left, rfl⟩ | ⟨record, rfl⟩⟩ := h
  · exact ok
  · obtain ⟨-, -, graders, -⟩ := dormant (by rw [loading]; rfl)
    refine gradersOk_of_reset (by simp [graders]) ?_
    rw [enterJoining_params]
    show 1 ≤ (clampByte 1 15 record[12]).toNat
    rw [clampByte_toNat (by decide)]
    exact Nat.le_min.mpr ⟨by decide, Nat.le_max_left 1 _⟩

/-! ### The blocks that wait for receive -/

/-- While receive is off none of the blocks runs that show a station that has started. -/
theorem Started.receiveOn {s : State} (on : Started s) (dormant : DormantOk s) :
    receiveOn s.control.station = true := by
  by_contra off
  obtain ⟨ports, cadence, -, error, -, inFlight, -, -, notices, -, peers, -, engine, -⟩ := dormant (by simpa using off)
  rcases on with on | on | on | on | on | ⟨p, on⟩ | ⟨i, on⟩ | on
  · exact off on
  · simp [cadence, isRunning] at on
  · simp [error, isRunning] at on
  · simp [notices, Notices.reset, isRunning] at on
  · exact on inFlight
  · simp [ports, Port.reset] at on
  · rw [peers] at on
    simp only [peersReset, Fin.getElem_fin, Vector.getElem_ofFn, Peer.reset, isHeard] at on
    split_ifs at on
  · simp [engine, Engine.reset] at on

theorem dormantOk_of_receiveOn {s : State} (on : receiveOn s.control.station = true) : DormantOk s :=
  fun off => by simp [on] at off

/-- `DormantOk` is kept by an event that happens only where receive is on, and by one that leaves what it reads. -/
theorem dormantOk_of_on {s t : State} (control : t.control = s.control) (on : receiveOn s.control.station = true) :
    DormantOk t := dormantOk_of_receiveOn (by rwa [control])

theorem demand_of_off {d : Demand} {s : State} (off : receiveOn s.control.station = false) : demand d s = s := by
  have dropped : transmitAllowed s.control.station (demandKind d) = false := by
    revert off
    cases s.control.station <;> simp [receiveOn, transmitAllowed]
  rw [demand, dropped, if_neg Bool.false_ne_true]

/-- A reset has every block at its reset values. -/
theorem dormantOk_of_reset {s t : State} (h : t = { restartReset s with lookup := t.lookup, spi := t.spi }) :
    DormantOk t := by
  rw [h]
  exact fun _ => ⟨rfl, rfl, rfl, rfl, rfl, rfl, rfl, rfl, rfl, rfl, rfl, rfl, rfl, rfl⟩

theorem receiveOn_of_transmitAllowed {station : StationState} {kind : EntryKind}
    (may : transmitAllowed station kind = true) : receiveOn station = true := by
  revert may
  cases station <;> simp [receiveOn, transmitAllowed]

theorem Event.keeps_dormantOk {s t : State} (e : Event s t) (ok : DormantOk s) : DormantOk t := by
  cases e with
  | counts c n on => exact dormantOk_of_on rfl (on.receiveOn ok)
  | windows cadence error on => exact dormantOk_of_on rfl (on.receiveOn ok)
  | grades graders on h => exact dormantOk_of_on rfl (on.receiveOn ok)
  | samples p los seen on => exact dormantOk_of_on rfl (on.receiveOn ok)
  | portsMove ports rs on h => exact dormantOk_of_on (by simp) (on.receiveOn ok)
  | peerMoves i p ds rs on => exact dormantOk_of_on (by simp) (on.receiveOn ok)
  | peerNotes i p on => exact dormantOk_of_on rfl (on.receiveOn ok)
  | stores g k b w on => exact dormantOk_of_on rfl (on.receiveOn ok)
  | lineBusy boundary receiver owed on => exact dormantOk_of_on rfl on
  | lineIdle on => exact dormantOk_of_on rfl on
  | starts place e head may =>
    simp only [mayStart, Bool.and_eq_true] at may
    exact dormantOk_of_on rfl (receiveOn_of_transmitAllowed may.1.1.1)
  | ends f owed flies => exact dormantOk_of_on rfl ((Started.of_inFlight flies).receiveOn ok)
  | returns f owed flies => exact dormantOk_of_on rfl ((Started.of_inFlight flies).receiveOn ok)
  | holds g b runs => exact dormantOk_of_on (by simp) ((Started.of_run runs).receiveOn ok)
  | fails g b runs => exact dormantOk_of_on (by simp) ((Started.of_run runs).receiveOn ok)
  | parityFails g on => exact dormantOk_of_on (by simp) (receiveOn_of_servesLookups on)
  | mutes | quiets | wakes | settles => exact dormantOk_of_receiveOn (by simp [markAllDirty, receiveOn])
  | resets | powersOn => exact dormantOk_of_reset (s := s) rfl
  | demands d h =>
    cases on : receiveOn s.control.station with
    | true => exact dormantOk_of_on (by simp) on
    | false => rwa [demand_of_off on]
  | times n on =>
    rcases on with on | rfl
    · exact dormantOk_of_on rfl (on.receiveOn ok)
    · intro off
      obtain ⟨ports, cadence, graders, error, queue, inFlight, backoff, recovery, notices, rest⟩ := ok off
      exact ⟨ports, cadence, graders, error, queue, inFlight, backoff, recovery, by simp [notices, Notices.reset], rest⟩
  | _ => exact ok

theorem tickPort_reset : tickPort Port.reset = Port.reset := rfl

theorem tick_dormantOk {s : State} (ok : DormantOk s) : DormantOk (tick s) := by
  intro off
  obtain ⟨ports, cadence, graders, error, queue, inFlight, backoff, recovery, notices, counters, peers, rest⟩ := ok off
  refine ⟨?_, by simp [tick, cadence, tickTimer], graders, by simp [tick, error, tickTimer], queue, inFlight, backoff,
    recovery, by simp [tick, notices, Notices.reset, tickTimer], counters, ?_, rest⟩
  · ext p hp : 1
    simp [tick, ports, tickPort_reset]
  · ext i hi : 1
    simp [tick, peers, peersReset, tickPeer, Peer.reset, tickTimer]

theorem EndsLoading.keeps_dormantOk {s t : State} (h : EndsLoading s t) (ok : DormantOk s) : DormantOk t := by
  obtain ⟨loading, ⟨cause, left, rfl⟩ | ⟨record, rfl⟩⟩ := h
  · exact fun _ => ok (by rw [loading]; rfl)
  · exact dormantOk_of_receiveOn (by simp [receiveOn])

/-- The monitors, the graders and the dormant blocks. -/
def MonitorsOk (s : State) : Prop := PortsOk s ∧ GradersOk s ∧ DormantOk s

/-- Settles O56: each event at a port takes a legal monitor to a legal one, clean counts follow the ports, and while
receive is off nothing runs that could touch a dormant block. -/
theorem stepKeepsMonitors : Obligations.StepKeepsMonitors := fun _ _ ports graders dormant h =>
  step_keeps (P := MonitorsOk) (fun _ ok => ok)
    (fun ⟨ports, graders, dormant⟩ => ⟨tick_portsOk ports, tick_gradersOk graders, tick_dormantOk dormant⟩)
    (fun ends ⟨ports, graders, dormant⟩ =>
      ⟨ends.keeps_portsOk ports, ends.keeps_gradersOk dormant graders, ends.keeps_dormantOk dormant⟩)
    (fun e ⟨ports, graders, dormant⟩ => ⟨e.keeps_portsOk ports, e.keeps_gradersOk graders, e.keeps_dormantOk dormant⟩)
    h ⟨ports, graders, dormant⟩

end Sys2Proof.Machine
end

section
/-! The peer table, the candidate table and the view digest: what every step keeps of them (R91, R92, R102 to R108). -/

namespace Sys2Proof.Machine

/-! ### The peer entries -/

theorem peersOk_of_eq {s t : State} (peers : t.peers = s.peers) (number : t.control.number = s.control.number)
    (ok : PeersOk s) : PeersOk t := by
  rwa [PeersOk, peers, number]

theorem PeerOk.reset {state : PeerState} (h : state = .localEntry ∨ state = .absent) : PeerOk (Peer.reset state) := by
  rcases h with rfl | rfl <;> simp [PeerOk, Peer.reset, isRunning]

theorem peersOk_of_reset {s : State} (peers : s.peers = peersReset s.control.number) : PeersOk s := by
  intro i
  rw [peers]
  simp only [peersReset, Fin.getElem_fin, Vector.getElem_ofFn]
  by_cases own : i = s.control.number
  · exact ⟨.reset (.inl (if_pos own)), by simp [own, Peer.reset]⟩
  · exact ⟨.reset (.inr (if_neg own)), by simp [own, Peer.reset]⟩

/-- One peer entry takes a legal new value, LOCAL where it was and only there (R92). -/
theorem peersOk_set {s t : State} {i : StationNo} {p : Peer} (peers : t.peers = s.peers.set i p)
    (number : t.control.number = s.control.number) (h : PeerOk s.peers[i] → PeerOk p)
    (same : p.state = .localEntry ↔ s.peers[i].state = .localEntry) (ok : PeersOk s) : PeersOk t := by
  intro j
  rw [peers, number]
  by_cases here : j = i
  · subst here
    simpa [same] using And.intro (h (ok j).1) (ok j).2
  · have other : (i : Nat) ≠ j := fun h => here (Fin.ext h.symm)
    simpa [Vector.getElem_set_ne, other] using ok j

/-- An entry whose state is not LOCAL is not the own one. -/
theorem PeersOk.other {s : State} (ok : PeersOk s) {i : StationNo}
    (h : i ≠ s.control.number ∨ s.peers[i].state ≠ .localEntry) :
    i ≠ s.control.number ∧ s.peers[i].state ≠ .localEntry := by
  have own := (ok i).2
  exact ⟨h.elim id fun still same => still (own.mpr same), h.elim (fun other still => other (own.mp still)) id⟩

theorem tick_peersOk {s : State} (ok : PeersOk s) : PeersOk (tick s) := by
  intro i
  simpa [tick, tickPeer, PeerOk] using ok i

@[simp] theorem writeHeld_peers (g : Group) (b : Bucket) (s : State) : (writeHeld g b s).peers = s.peers := by
  unfold writeHeld
  split
  · rfl
  · exact flip_peers g s

@[simp] theorem writeFailed_peers (g : Group) (s : State) : (writeFailed g s).peers = s.peers := by
  unfold writeFailed retry
  split_ifs <;> simp

theorem Event.keeps_peersOk {s t : State} (e : Event s t) (ok : PeersOk s) : PeersOk t := by
  cases e with
  | peerMoves i p ds rs on other still h =>
    refine peersOk_set (movePeer_peers i p ds rs s) (by simp) h ?_ ok
    exact iff_of_false still (ok.other other).2
  | peerNotes i p on same report h => exact peersOk_set (s := s) rfl rfl h (by rw [same]) ok
  | resets | powersOn => exact peersOk_of_reset rfl
  | demands | portsMove | mutes | quiets | wakes | settles | holds | fails | parityFails =>
    exact peersOk_of_eq (by simp [markAllDirty]) (by simp [markAllDirty]) ok
  | _ => exact ok

theorem EndsLoading.keeps_peersOk {s t : State} (h : EndsLoading s t) (ok : PeersOk s) : PeersOk t := by
  obtain ⟨-, ⟨cause, left, rfl⟩ | ⟨record, rfl⟩⟩ := h
  · exact ok
  · exact peersOk_of_eq (by simp) (by simp [handOut]) ok

/-! ### The candidate table and its sources -/

/-- A row looks at the state of its peer entry and at its report (R105). -/
theorem peerRow_congr {p p' : Peer} (state : p.state = p'.state) (report : p.report = p'.report)
    (row : Vector Candidate 8) : peerRow p row = peerRow p' row := by
  unfold peerRow
  rw [state, report]

/-- A row that follows its peer entry goes on to follow it. -/
theorem peerRow_peerRow (p : Peer) (row : Vector Candidate 8) : peerRow p (peerRow p row) = peerRow p row := by
  ext q hq : 1
  unfold peerRow
  split <;> simp

@[simp] theorem peerRow_source (p : Peer) (row : Vector Candidate 8) (q : PortNo) :
    (peerRow p row)[q].source = row[q].source := by
  unfold peerRow
  split <;> simp

theorem ownRow_eq {s t : State} (params : t.params = s.params) (ports : t.ports = s.ports) : ownRow t = ownRow s := by
  unfold ownRow
  rw [params, ports]

/-- The sources of the rows, where the own number is known by another term. -/
theorem sourcesOk_of_number {s : State} {number : StationNo} (same : s.control.number = number)
    (own : s.table.rows[number] = ownRow s)
    (others : ∀ i : StationNo, i ≠ number → s.table.rows[i] = peerRow s.peers[i] s.table.rows[i] ∧
      ∀ p : PortNo, s.table.rows[i][p].source = .peerReport) : SourcesOk s := by
  subst same
  exact ⟨own, others⟩

theorem sourcesOk_of_eq {s t : State} (rows : t.table.rows = s.table.rows)
    (number : t.control.number = s.control.number) (own : ownRow t = ownRow s)
    (peers : ∀ (i : StationNo) (row : Vector Candidate 8), peerRow t.peers[i] row = peerRow s.peers[i] row)
    (ok : SourcesOk s) : SourcesOk t := by
  refine sourcesOk_of_number number ?_ fun i other => ?_
  · rw [rows, own]
    exact ok.1
  · rw [rows, peers]
    exact ok.2 i other

theorem row_set_ne {rows : Vector (Vector Candidate 8) 16} {i j : StationNo} (h : j ≠ i) (row : Vector Candidate 8) :
    (rows.set i row)[j] = rows[j] := by
  have other : (i : Nat) ≠ j := fun same => h (Fin.ext same.symm)
  simp [Vector.getElem_set_ne, other]

theorem row_set_same (rows : Vector (Vector Candidate 8) 16) (i : StationNo) (row : Vector Candidate 8) :
    (rows.set i row)[i] = row := by
  simp

/-- The own row follows the port monitors as they move (R104). -/
theorem sourcesOk_of_ownRow {s t : State} (rows : t.table.rows = s.table.rows.set s.control.number (ownRow t))
    (number : t.control.number = s.control.number) (peers : t.peers = s.peers) (ok : SourcesOk s) : SourcesOk t := by
  refine sourcesOk_of_number number ?_ fun i other => ?_
  · rw [rows, row_set_same]
  · rw [rows, peers, row_set_ne other]
    exact ok.2 i other

/-- The row of another station follows its peer entry (R105). -/
theorem sourcesOk_of_peerRow {s t : State} {i : StationNo} {p : Peer} (other : i ≠ s.control.number)
    (rows : t.table.rows = s.table.rows.set i (peerRow p s.table.rows[i])) (peers : t.peers = s.peers.set i p)
    (number : t.control.number = s.control.number) (own : ownRow t = ownRow s) (ok : SourcesOk s) : SourcesOk t := by
  refine sourcesOk_of_number number ?_ fun j foreign => ?_
  · rw [rows, own, row_set_ne other.symm]
    exact ok.1
  rw [rows, peers]
  by_cases here : j = i
  · subst here
    rw [row_set_same]
    have peer : (s.peers.set j p)[j] = p := by simp
    rw [peer, peerRow_peerRow]
    exact ⟨rfl, fun q => by rw [peerRow_source]; exact (ok.2 j foreign).2 q⟩
  · have peer : (s.peers.set i p)[j] = s.peers[j] := by
      have : (i : Nat) ≠ j := fun same => here (Fin.ext same.symm)
      simp [Vector.getElem_set_ne, this]
    rw [row_set_ne here, peer]
    exact ok.2 j foreign

/-- At reset every port is OFF and no peer has been heard (R102). -/
theorem sourcesOk_of_reset {s : State} (table : s.table = CandidateTable.reset s.control.number)
    (ports : s.ports = Vector.replicate 8 Port.reset) (peers : s.peers = peersReset s.control.number) :
    SourcesOk s := by
  unfold SourcesOk ownRow
  rw [table, ports, peers]
  refine ⟨?_, fun i other => ⟨?_, fun q => ?_⟩⟩
  · ext q hq : 1
    simp [CandidateTable.reset, ownCandidate, Port.reset, Candidate.ownReset, effectiveWeight]
  · ext q hq : 1
    simp [CandidateTable.reset, other, peersReset, Peer.reset, peerRow, Candidate.unheard]
  · simp [CandidateTable.reset, other, Candidate.unheard]

@[simp] theorem movePorts_rows (ports : Vector Port 8) (rs : List Raise) (s : State) :
    (movePorts ports rs s).table.rows = s.table.rows.set s.control.number
      (Vector.ofFn fun p => ownCandidate s.params.rampSteps.toNat ports[p]) := by
  simp [movePorts]

@[simp] theorem movePeer_rows (i : StationNo) (p : Peer) (ds : List Demand) (rs : List Raise) (s : State) :
    (movePeer i p ds rs s).table.rows = s.table.rows.set i (peerRow p s.table.rows[i]) := by
  simp [movePeer, changePeer]

theorem ownRow_movePorts (ports : Vector Port 8) (rs : List Raise) (s : State) :
    ownRow (movePorts ports rs s) = Vector.ofFn fun p => ownCandidate s.params.rampSteps.toNat ports[p] := by
  unfold ownRow
  rw [movePorts_params, movePorts_ports]

@[simp] theorem enterJoining_handOut_rows (record : Vector Byte 28) (s : State) :
    (enterJoining (handOut record s)).table.rows =
      s.table.rows.set s.control.number (ownRow (enterJoining (handOut record s))) := by
  rw [enterJoining_table]
  show s.table.rows.set s.control.number _ = _
  unfold ownRow
  rw [enterJoining_params, enterJoining_ports]
  rfl

/-- What a search, a raise, a count or a mark of dirty flags leaves of the table: the rows and the digest. -/
theorem writeHeld_rows_digest (g : Group) (b : Bucket) (s : State) :
    (writeHeld g b s).table.rows = s.table.rows ∧ (writeHeld g b s).table.digest = s.table.digest := by
  unfold writeHeld flip
  split <;> simp

theorem writeFailed_rows_digest (g : Group) (s : State) :
    (writeFailed g s).table.rows = s.table.rows ∧ (writeFailed g s).table.digest = s.table.digest := by
  unfold writeFailed mapFault retry
  split_ifs <;> simp [startRecompute, markDirty]

theorem parityFailed_rows_digest (g : Group) (s : State) :
    (parityFailed g s).table.rows = s.table.rows ∧ (parityFailed g s).table.digest = s.table.digest := by
  unfold parityFailed
  split_ifs <;> simp [markDirty]

theorem ownRow_of_sampled (s : State) (p : PortNo) (los seen : Bool) :
    ownRow { s with ports := s.ports.set p { s.ports[p] with losSeen := los, transitionSeen := seen } } = ownRow s := by
  unfold ownRow
  congr 1
  funext q
  exact set_congr (x := { s.ports[p] with losSeen := los, transitionSeen := seen })
    (ownCandidate s.params.rampSteps.toNat) rfl q

theorem Event.keeps_sourcesOk {s t : State} (e : Event s t) (peersOk : PeersOk s) (ok : SourcesOk s) :
    SourcesOk t := by
  cases e with
  | samples p los seen on => exact sourcesOk_of_eq (s := s) rfl rfl (ownRow_of_sampled s p los seen) (fun _ _ => rfl) ok
  | portsMove ports rs on h =>
    exact sourcesOk_of_ownRow (by rw [movePorts_rows, ownRow_movePorts]) (by simp) (by simp) ok
  | peerMoves i p ds rs on other =>
    exact sourcesOk_of_peerRow (peersOk.other other).1 (movePeer_rows i p ds rs s) (movePeer_peers i p ds rs s) (by simp)
      (ownRow_eq (by simp) (by simp)) ok
  | peerNotes i p on same report h =>
    refine sourcesOk_of_eq (s := s) rfl rfl rfl (fun j row => ?_) ok
    exact set_congr (fun q => peerRow q row) (peerRow_congr same report row) j
  | resets | powersOn => exact sourcesOk_of_reset rfl rfl rfl
  | demands | mutes | quiets | wakes | settles =>
    exact sourcesOk_of_eq (s := s) (by simp [markAllDirty, enterQuiet]) (by simp [markAllDirty])
      (ownRow_eq (by simp [markAllDirty]) (by simp [markAllDirty])) (fun _ _ => by simp [markAllDirty]) ok
  | holds g b =>
    exact sourcesOk_of_eq (writeHeld_rows_digest g b s).1 (by simp)
      (ownRow_eq (writeHeld_params g b s) (writeHeld_ports g b s)) (fun _ _ => by simp) ok
  | fails g b =>
    exact sourcesOk_of_eq (writeFailed_rows_digest g s).1 (by simp)
      (ownRow_eq (writeFailed_params g s) (writeFailed_ports g s)) (fun _ _ => by simp) ok
  | parityFails g =>
    exact sourcesOk_of_eq (parityFailed_rows_digest g s).1 (by simp) (ownRow_eq (by simp) (by simp)) (fun _ _ => by simp) ok
  | _ => exact ok

theorem EndsLoading.keeps_sourcesOk {s t : State} (h : EndsLoading s t) (ok : SourcesOk s) : SourcesOk t := by
  obtain ⟨-, ⟨cause, left, rfl⟩ | ⟨record, rfl⟩⟩ := h
  · exact ok
  · exact sourcesOk_of_ownRow (enterJoining_handOut_rows record s) (by simp [handOut]) (by simp) ok

theorem tick_sourcesOk {s : State} (ok : SourcesOk s) : SourcesOk (tick s) := by
  have own : ∀ (r : Nat) (p : Port), ownCandidate r (tickPort p) = ownCandidate r p := fun _ _ => rfl
  refine sourcesOk_of_eq (s := s) rfl rfl ?_ (fun i row => ?_) ok
  · simp [ownRow, tick, own]
  · exact peerRow_congr (by simp [tick, tickPeer]) (by simp [tick, tickPeer]) row

/-! ### The view digest -/

theorem digestOk_of_eq {s t : State} (rows : t.table.rows = s.table.rows) (digest : t.table.digest = s.table.digest)
    (ok : DigestOk s) : DigestOk t := by
  rwa [DigestOk, rows, digest]

/-- The CRC-16 of 128 bytes of 0 (R108). -/
theorem crc16_zeros : crc16 (List.replicate 128 0) = 0xF00A := by
  have split : List.replicate 128 (0 : Byte) = List.replicate 32 0 ++ (List.replicate 32 0 ++
      (List.replicate 32 0 ++ List.replicate 32 0)) := by
    simp only [List.replicate_append_replicate]
  have first : (List.replicate 32 0).foldl crcByte 0xFFFF = 61772#16 := by decide +kernel
  have second : (List.replicate 32 0).foldl crcByte 61772#16 = 55002#16 := by decide +kernel
  have third : (List.replicate 32 0).foldl crcByte 55002#16 = 35372#16 := by decide +kernel
  have fourth : (List.replicate 32 0).foldl crcByte 35372#16 = 0xF00A := by decide +kernel
  rw [crc16, split, List.foldl_append, List.foldl_append, List.foldl_append, first, second, third, fourth]

theorem digestOk_of_reset {s : State} (table : s.table = CandidateTable.reset s.control.number) : DigestOk s := by
  have zero : ∀ u, contribution (candidateAt (CandidateTable.reset s.control.number).rows u) = 0 := by
    intro u
    simp only [candidateAt, CandidateTable.reset, Fin.getElem_fin, Vector.getElem_ofFn, Vector.getElem_replicate]
    split_ifs <;> rfl
  rw [DigestOk, table, viewDigest, contributions, List.map_congr_left (g := fun _ => 0) fun u _ => zero u, List.map_const',
    List.length_finRange, crc16_zeros]
  rfl

/-- A change of one row keeps the digest that of the table (R108). -/
theorem digestOk_of_changeRow {s t : State} (i : StationNo) (row : Vector Candidate 8)
    (rows : t.table.rows = (changeRow i row s.table).rows) (digest : t.table.digest = (changeRow i row s.table).digest)
    (ok : DigestOk s) : DigestOk t := by
  rw [DigestOk, rows, digest]
  exact changeRow_digest i row ok

theorem Event.keeps_digestOk {s t : State} (e : Event s t) (ok : DigestOk s) : DigestOk t := by
  cases e with
  | portsMove ports rs on h =>
    exact digestOk_of_changeRow s.control.number _ (movePorts_rows ports rs s) (by simp [movePorts]) ok
  | peerMoves i p ds rs on => exact digestOk_of_changeRow i _ (movePeer_rows i p ds rs s) (by simp [movePeer, changePeer]) ok
  | resets | powersOn => exact digestOk_of_reset rfl
  | demands | mutes | quiets | wakes | settles =>
    exact digestOk_of_eq (by simp [markAllDirty, enterQuiet]) (by simp [markAllDirty, enterQuiet]) ok
  | holds g b => exact digestOk_of_eq (writeHeld_rows_digest g b s).1 (writeHeld_rows_digest g b s).2 ok
  | fails g b => exact digestOk_of_eq (writeFailed_rows_digest g s).1 (writeFailed_rows_digest g s).2 ok
  | parityFails g => exact digestOk_of_eq (parityFailed_rows_digest g s).1 (parityFailed_rows_digest g s).2 ok
  | _ => exact ok

theorem EndsLoading.keeps_digestOk {s t : State} (h : EndsLoading s t) (ok : DigestOk s) : DigestOk t := by
  obtain ⟨-, ⟨cause, left, rfl⟩ | ⟨record, rfl⟩⟩ := h
  · exact ok
  · exact digestOk_of_changeRow s.control.number
      (Vector.ofFn fun p => ownCandidate (recordParams record).rampSteps.toNat (startedPorts record s.pins.los)[p])
      (by rw [enterJoining_table]; rfl) (by rw [enterJoining_table]; rfl) ok

/-- The peer entries, the candidate table and its digest. -/
def TablesOk (s : State) : Prop := PeersOk s ∧ SourcesOk s ∧ DigestOk s

/-- Settles O57: the candidate table changes only through `changeRow`, which brings the digest along, with the row that
its source gives. -/
theorem stepKeepsTables : Obligations.StepKeepsTables := fun _ _ peers sources digest h =>
  step_keeps (P := TablesOk) (fun _ ok => ok)
    (fun ⟨peers, sources, digest⟩ => ⟨tick_peersOk peers, tick_sourcesOk sources, digest⟩)
    (fun ends ⟨peers, sources, digest⟩ =>
      ⟨ends.keeps_peersOk peers, ends.keeps_sourcesOk sources, ends.keeps_digestOk digest⟩)
    (fun e ⟨peers, sources, digest⟩ => ⟨e.keeps_peersOk peers, e.keeps_sourcesOk peers sources, e.keeps_digestOk digest⟩)
    h ⟨peers, sources, digest⟩

/-- Settles O53: at reset every block is empty or stopped, and agrees with the others. -/
theorem resetHasInvariants : Obligations.ResetHasInvariants := by
  refine ⟨rfl, eventsOk_of_reset rfl, (queueOk_iff _).mpr ⟨.nil, nofun⟩,
    controlOk_of_active (iff_of_false nofun nofun) (iff_of_false nofun nofun) rfl nofun, portsOk_of_reset rfl rfl,
    gradersOk_of_reset rfl (by decide), peersOk_of_reset rfl, sourcesOk_of_reset rfl rfl rfl, digestOk_of_reset rfl,
    reset_engineOk rfl rfl, ⟨by decide, by decide, by decide⟩, seeking_lineOk rfl rfl rfl (Nat.zero_le _), iff_of_true rfl rfl, fun _ => ?_⟩
  exact ⟨rfl, rfl, rfl, rfl, rfl, rfl, rfl, rfl, rfl, rfl, rfl, rfl, rfl, rfl⟩

end Sys2Proof.Machine
end

section
/-! The step itself, one cell of 100 ns, and the commands whose next state is written out: WAKE, LINE_BUSY and the
expiries of the notice unit's timers. -/

namespace Sys2Proof.Machine

/-! ### The step -/

/-- Settles O1: the branch of `step` for a queue that is not empty. -/
theorem stepRunsFrontCommand : Obligations.StepRunsFrontCommand := by
  intro c rest s waiting
  rw [step, waiting]

/-! ### One cell of 100 ns -/

theorem tickTimer_passesCell (timer : Timer) : PassesCell timer (tickTimer timer) := by
  cases timer <;> rfl

/-- The loader waits with nothing to carry out, or where it has released SCL and the EEPROM holds it low (R3). -/
theorem tickBus_waits {held : Bool} {l : Loader} (h : l.bus = [] ∨ ((loaderDrive l).scl = true ∧ held = true)) :
    tickBus held l = l := by
  unfold tickBus
  rcases h with idle | ⟨released, held⟩
  · simp [idle]
  · simp [released, held]

section Loading
variable {held : Bool} {l : Loader} {e : I2cElement} {rest : List I2cElement} (busy : l.bus = e :: rest)
  (free : (loaderDrive l).scl = false ∨ held = false)
include busy free

theorem tickBus_runs : tickBus held l = if l.cells + 1 < 25 then { l with cells := l.cells + 1 } else nextQuarter l := by
  unfold tickBus
  rw [if_neg]
  · rfl
  · rcases free with low | low <;> simp [busy, low]

theorem tickBus_cell (h : l.cells + 1 < 25) : tickBus held l = { l with cells := l.cells + 1 } := by
  rw [tickBus_runs busy free, if_pos h]

theorem tickBus_quarter (h : 25 ≤ l.cells + 1) (more : l.quarter + 1 < (elementDrives e).length) :
    tickBus held l = { l with quarter := l.quarter + 1, cells := 0 } := by
  rw [tickBus_runs busy free, if_neg (Nat.not_lt.mpr h), nextQuarter, busy]
  exact if_pos more

theorem tickBus_element (h : 25 ≤ l.cells + 1) (last : (elementDrives e).length ≤ l.quarter + 1) :
    tickBus held l = takeUpBus rest l := by
  rw [tickBus_runs busy free, if_neg (Nat.not_lt.mpr h), nextQuarter, busy]
  exact if_neg (Nat.not_lt.mpr last)

end Loading

@[simp] theorem tick_ports (s : State) (p : PortNo) : (tick s).ports[p] = tickPort s.ports[p] := by
  simp [tick]

@[simp] theorem tick_peers (s : State) (i : StationNo) : (tick s).peers[i] = tickPeer s.peers[i] := by
  simp [tick]

theorem idleAfter_idle {b : Bus} (idle : b.line = .idle) (cells : Nat) :
    idleAfter b cells = min 255 (b.idleCount + cells) :=
  if_pos idle

theorem idleAfter_busy {b : Bus} (busy : b.line = .busy) (cells : Nat) : idleAfter b cells = b.idleCount :=
  if_neg (by rw [busy]; decide)

/-- Settles O2: `tick` moves every timer by one cell and the loader by one cell on its bus. -/
theorem emptyQueuePassesOneCell : Obligations.EmptyQueuePassesOneCell := by
  intro s empty
  refine ⟨tick s, by rw [step, empty], fun idle => idleAfter_idle idle 1, fun busy => idleAfter_busy busy 1, rfl,
    tickTimer_passesCell _, rfl, tickTimer_passesCell _, tickTimer_passesCell _, rfl, tickTimer_passesCell _,
    tickTimer_passesCell _, tickTimer_passesCell _, tickTimer_passesCell _, fun i => ?_, fun p => ?_, fun waits => ?_,
    fun e rest busy free => ⟨fun early => ?_, fun due more => ?_, fun due last => ?_⟩,
    (tickBus_frame s.pins.sclHeld s.loader).1, rfl, rfl, empty, rfl, rfl, rfl, rfl, rfl, rfl, rfl, rfl, rfl⟩
  · rw [tick_peers]
    exact ⟨tickTimer_passesCell _, rfl⟩
  · rw [tick_ports]
    exact ⟨tickTimer_passesCell _, tickTimer_passesCell _, rfl⟩
  · simp [tick, tickBus_waits waits]
  · simp [tick, tickBus_cell busy free early]
  · simp [tick, tickBus_quarter busy free due more]
  · simp [tick, tickBus_element busy free due last, takeUpBus]

/-! ### A demand, and WAKE -/

theorem demand_dropped {d : Demand} (notLeave : d ≠ .leave) {s : State}
    (h : transmitAllowed s.control.station (demandKind d) = false ∨ leaveStands s.bus = true) : demand d s = s := by
  unfold demand
  split
  next allowed =>
    have stands : leaveStands s.bus = true := h.resolve_left (by simp [allowed])
    rw [queueDemand, if_neg notLeave, if_pos stands]
  next => rfl

theorem demand_queued {d : Demand} (notLeave : d ≠ .leave) {s : State}
    (allowed : transmitAllowed s.control.station (demandKind d) = true) (free : leaveStands s.bus = false)
    (none : ∀ e ∈ s.bus.queue, e.kind ≠ demandKind d) :
    demand d s = { s with
      bus := { s.bus with
        queue := s.bus.queue ++ [{ kind := demandKind d, urgent := d == .alert, attempts := 0 }] } } := by
  have unmerged : s.bus.queue.any (fun e => e.kind == demandKind d) = false := by simpa using none
  rw [demand, if_pos allowed, queueDemand, if_neg notLeave, free, mergeDemand, unmerged]
  rfl

theorem leaveStands_emptyQueue (b : Bus) : leaveStands (emptyQueue b) = false := by
  refine leaveStands_eq_false.mpr ⟨nofun, fun f flies _ => ?_⟩
  obtain ⟨f', -, rfl⟩ := Option.map_eq_some_iff.mp flies
  rfl

theorem wakeUp_eq (s : State) :
    wakeUp s = { s with
      control := { s.control with station := .joining, settle := .running (2 * s.params.announce.toNat * 10000) }
      bus := { s.bus with
        queue := [{ kind := .join, urgent := false, attempts := 0 }]
        inFlight := s.bus.inFlight.map fun f => { f with final := true } } } :=
  demand_queued (d := .join) (by decide) rfl (leaveStands_emptyQueue s.bus) nofun

/-- Settles O10: the queue is emptied before the JOIN is demanded, so that no LEAVE stands and the JOIN is alone. -/
theorem wakeReturnsToJoining : Obligations.WakeReturnsToJoining := by
  intro s opened quiet still
  have awake : s.control.station ≠ .loading := by rw [quiet]; decide
  have allowed : (s.control.station == .quiet && !s.control.restartPending) = true := by rw [quiet, still]; rfl
  rw [exec, execWake, allowed, takeSteering_accepted opened awake, wakeUp_eq]

/-! ### LINE_BUSY -/

theorem afterWait_eq (owed : Option Backoff) :
    afterWait owed = match owed with
      | some owed => if owed.waiting then none else some owed
      | none => none := by
  cases owed with
  | none => rfl
  | some owed => cases waiting : owed.waiting <;> simp [afterWait, Option.filter, waiting]

/-- Settles O28. -/
theorem firstTransitionMakesLineBusy : Obligations.FirstTransitionMakesLineBusy := by
  intro s on seek
  rw [exec, execLineBusy, if_pos ⟨on, seek⟩, afterWait_eq]
  rfl

/-! ### The timers of the notice unit -/

theorem reportPending_eq_true {b : Bus} :
    reportPending b = true ↔ (∃ e ∈ b.queue, e.kind = .report) ∨ ∃ f ∈ b.inFlight, f.entry.kind = .report := by
  unfold reportPending
  cases b.inFlight <;> simp

theorem demands_of_dropped {s : State} {d : Demand} (notLeave : d ≠ .leave) (pending : Bool)
    (h : pending = true ∨ transmitAllowed s.control.station (demandKind d) = false ∨ leaveStands s.bus = true) :
    demands (if pending then [] else [d]) s = s := by
  cases pending with
  | true => rfl
  | false => exact demand_dropped notLeave (h.resolve_left (by decide))

/-- Settles O42: the STATE is demanded of the queue as it stands, where no report is pending. -/
theorem announceAndHoldoffExpiries : Obligations.AnnounceAndHoldoffExpiries := by
  refine fun s => ⟨fun runs => ?_, rfl⟩
  have taken : exec .announceTimerExpiry s = .next (demands (if reportPending s.bus then [] else [.state])
      { s with notices := { s.notices with announce := announceTime s.params } }) := by
    rw [exec, execAnnounceTimerExpiry, if_pos runs]
  have dropped := fun h => congrArg State.bus (demands_of_dropped (d := .state)
    (s := { s with notices := { s.notices with announce := announceTime s.params } }) (by decide)
    (reportPending s.bus) h)
  refine ⟨_, taken, by simp; rfl, fun pending => dropped (.inl (reportPending_eq_true.mpr pending)),
    fun queue flight free allowed => ?_, fun no => dropped (.inr (.inl no)), fun stands => dropped (.inr (.inr stands)), ?_⟩
  · have still : reportPending s.bus = false := by
      rw [Bool.eq_false_iff, ne_eq, reportPending_eq_true]
      rintro (⟨e, he, kind⟩ | ⟨f, hf, kind⟩)
      · exact queue e he kind
      · exact flight f hf kind
    rw [still]
    exact congrArg State.bus (demand_queued (d := .state)
      (s := { s with notices := { s.notices with announce := announceTime s.params } }) (by decide) allowed free queue)
  · unfold demands
    split
    · rfl
    · simp only [List.foldl_cons, List.foldl_nil, demand]
      split <;> rfl

end Sys2Proof.Machine
end

section
/-! Facts about the operations that several commands share, in the form in which the statements about commands ask for
them: the counters, the search, the two bytes of a half word, and the reset. -/

namespace Sys2Proof.Machine

/-! ### Counters -/

theorem counterIndex_injective {c d : Counter} (h : counterIndex c = counterIndex d) : c = d := by
  revert h
  cases c <;> cases d <;> decide

@[simp] theorem counterOf_bump_same (c : Counter) (s : State) :
    counterOf c (bump c s) = saturatingHalf (counterOf c s) := by
  simp [counterOf, bump]

theorem counterOf_bump_other {c d : Counter} (h : d ≠ c) (s : State) : counterOf d (bump c s) = counterOf d s := by
  have apart : (counterIndex c : Nat) ≠ counterIndex d := fun same => h (counterIndex_injective (Fin.ext same)).symm
  simp [counterOf, bump, Vector.getElem_set_ne, apart]

theorem CountersBut.of_eq {named : List Counter} {s t : State} (h : t.counters = s.counters) :
    CountersBut named s t := by
  intro c _
  rw [counterOf, counterOf, h]

theorem CountersBut.bump (c : Counter) (s : State) : CountersBut [c] s (bump c s) := fun _ other =>
  counterOf_bump_other (by simpa using other) s

theorem CountersBut.trans {named more : List Counter} {s t u : State} (first : CountersBut named s t)
    (second : CountersBut more t u) : CountersBut (named ++ more) s u := fun c other =>
  (second c fun h => other (List.mem_append_right _ h)).trans (first c fun h => other (List.mem_append_left _ h))

theorem CountersBut.mono {named more : List Counter} {s t : State} (h : CountersBut named s t)
    (sub : named ⊆ more) : CountersBut more s t := fun c other => h c fun named => other (sub named)

/-! ### The search -/

/-- What a search leaves, from a state whose engine, dirty flags and recompute count are known. -/
theorem search_searchFollows {s u : State} {e : Engine} {flagged : Group → Prop} (engine : u.engine = e)
    (dirty : ∀ h : Group, u.table.dirty[h] = true ↔ flagged h)
    (recomputes : counterOf .recomputes u = counterOf .recomputes s) : SearchFollows e flagged s (search u) := by
  obtain rfl : (fun h : Group => u.table.dirty[h] = true) = flagged := funext fun h => propext (dirty h)
  subst engine
  unfold SearchFollows
  rw [← recomputes]
  exact search_follows u

theorem search_countersBut (s : State) : CountersBut [.recomputes] s (search s) := by
  rcases search_cases s with same | ⟨g, -, -, -, starts⟩
  · rw [same]
    exact .of_eq rfl
  · rw [starts]
    exact fun c other => counterOf_bump_other (by simpa using other) _

theorem search_eq (s : State) :
    search s = { s with
      counters := (search s).counters, engine := (search s).engine
      table := { s.table with dirty := (search s).table.dirty } } := by
  rcases search_cases s with same | ⟨g, -, -, -, starts⟩
  · rw [same]
  · rw [starts]
    rfl

/-! ### The two bytes of a half word -/

@[simp] theorem ofBytes_toNat (high low : Byte) : (ofBytes high low).toNat = 256 * high.toNat + low.toNat := by
  rw [ofBytes, BitVec.toNat_append, ← Nat.shiftLeft_add_eq_or_of_lt low.isLt, Nat.shiftLeft_eq]
  omega

@[simp] theorem highByte_toNat (h : Half) : (highByte h).toNat = h.toNat / 256 := by
  have := h.isLt
  simp only [highByte, BitVec.extractLsb'_toNat, Nat.shiftRight_eq_div_pow]
  omega

@[simp] theorem lowByte_toNat (h : Half) : (lowByte h).toNat = h.toNat % 256 := by
  simp [lowByte]

@[simp] theorem highByte_ofBytes (high low : Byte) : highByte (ofBytes high low) = high := by
  have := low.isLt
  apply BitVec.eq_of_toNat_eq
  rw [highByte_toNat, ofBytes_toNat]
  omega

@[simp] theorem lowByte_ofBytes (high low : Byte) : lowByte (ofBytes high low) = low := by
  have := low.isLt
  apply BitVec.eq_of_toNat_eq
  rw [lowByte_toNat, ofBytes_toNat]
  omega

@[simp] theorem ofBytes_high_low (h : Half) : ofBytes (highByte h) (lowByte h) = h := by
  apply BitVec.eq_of_toNat_eq
  rw [ofBytes_toNat, highByte_toNat, lowByte_toNat]
  omega

/-! ### The reset -/

/-- The entries of the peer table at the strap sample, by the number on the straps. -/
theorem peersReset_strapNumber (pins : Pins) (i : StationNo) :
    (peersReset (strapNumber pins))[i] =
      Peer.reset (if i.val = pins.straps.toNat then .localEntry else .absent) := by
  simp [peersReset, strapNumber, Fin.ext_iff]

theorem candidateReset_strapNumber (pins : Pins) (i : StationNo) (p : PortNo) :
    (CandidateTable.reset (strapNumber pins)).rows[i][p] =
      if i.val = pins.straps.toNat then Candidate.ownReset else Candidate.unheard := by
  simp [CandidateTable.reset, strapNumber, Fin.ext_iff]

/-- What the reset leaves of a state whose pins, commands and lookup port are known (R2, R14, R163, R166). -/
theorem restartReset_resets {s u : State} (pending : u.pending = s.pending) (pins : u.pins = s.pins)
    (lookup : u.lookup = s.lookup) : Resets s (restartReset u) := by
  refine ⟨rfl, by rw [← pins]; rfl, rfl, rfl, rfl, rfl, rfl, rfl, rfl, rfl, rfl, rfl, rfl, rfl, rfl, rfl, rfl, rfl, rfl,
    rfl, rfl, rfl, rfl, rfl, rfl, rfl, fun i => ?_, fun i p => ?_, crc16_zeros.symm, rfl, rfl, rfl, rfl, pending, pins,
    by rw [← lookup]; rfl, by rw [← lookup]; rfl, by rw [← lookup]; rfl, ?_⟩
  · rw [← pins]
    exact peersReset_strapNumber u.pins i
  · rw [← pins]
    exact candidateReset_strapNumber u.pins i p
  · rw [← lookup]
    show (if u.lookup.fifo.isEmpty then none else some Service.notReady) = _
    cases u.lookup.fifo <;> simp

end Sys2Proof.Machine
end

section
/-! Start-up and the requests that take the station off the bus (chapter 1): power-on, the failures of loading, the
settle timer, QUIET, ATTN and RESTART. -/

namespace Sys2Proof.Machine

/-! ### Power-on -/

/-- Settles O4: power-on is the reset, with the lookup port and the inspection port at their power-on values too. -/
theorem powerOnTakesResetValues : Obligations.PowerOnTakesResetValues := by
  intro straps s
  refine ⟨powerOnReset { s with pins := { s.pins with straps := straps } }, rfl, rfl, rfl, rfl, rfl, rfl, rfl, rfl, rfl,
    rfl, rfl, rfl, rfl, rfl, rfl, rfl, rfl, rfl, rfl, rfl, rfl, rfl, rfl, rfl, rfl, rfl, rfl, rfl, rfl, rfl,
    fun c => ?_, fun i => ?_, fun i p => ?_, crc16_zeros.symm, fun g => ?_, rfl, rfl, rfl, fun g => ?_, fun g k b => rfl,
    fun g => ?_, rfl, rfl, rfl⟩
  · simp [counterOf, powerOnReset, restartReset]
  · exact peersReset_strapNumber { s.pins with straps := straps } i
  · exact candidateReset_strapNumber { s.pins with straps := straps } i p
  · simp [powerOnReset, restartReset, CandidateTable.reset]
  · simp [powerOnReset, restartReset, Engine.reset]
  · simp [powerOnReset, restartReset, MapMemory.reset]

/-! ### The failures of loading -/

/-- One raise has no order to be taken in. -/
theorem orderMatters_single (e : EventUnit) (r : Raise) : orderMatters e [r] = false := by
  have short : (fillingRaises e [r]).length ≤ 1 := List.length_filter_le _ _
  simp [orderMatters, Nat.not_lt.mpr short]

theorem raiseEvents_single (r : Raise) (s : State) :
    raiseEvents [r] s = { s with events := (raiseEvents [r] s).events } := by
  rw [raiseEvents, orderMatters_single]
  rfl

theorem enterConfigFault_enters (cause : FaultCause) (left : List I2cElement) (s : State) :
    EntersConfigFault cause left s (enterConfigFault cause left s) :=
  ⟨raiseEvents_single _ _, raiseEvents_raises _ _⟩

theorem attemptOnBus_eq_true {s : State} (loading : s.control.station = .loading)
    (deadline : isRunning s.loader.deadline = true) (retry : s.loader.retry = .stopped) : attemptOnBus s = true := by
  rw [attemptOnBus, loading, deadline, retry]
  rfl

theorem foldl_add_toNat (bytes : List Byte) (start : Byte) :
    (bytes.foldl (· + ·) start).toNat = (start.toNat + (bytes.map BitVec.toNat).sum) % 256 := by
  induction bytes generalizing start with
  | nil => simp [Nat.mod_eq_of_lt start.isLt]
  | cons b bytes ih =>
    rw [List.foldl_cons, ih, List.map_cons, List.sum_cons, BitVec.toNat_add]
    omega

theorem recordSum_eq_zero_iff (r : Vector Byte 28) :
    recordSum r = 0 ↔ (r.toList.map BitVec.toNat).sum % 256 = 0 := by
  rw [← BitVec.toNat_inj, recordSum, foldl_add_toNat]
  simp

theorem ofBytes_eq_iff {high low high' low' : Byte} :
    ofBytes high low = ofBytes high' low' ↔ high = high' ∧ low = low' :=
  ⟨fun h => ⟨by simpa using congrArg highByte h, by simpa using congrArg lowByte h⟩, fun ⟨h, l⟩ => by rw [h, l]⟩

theorem ofBytes_eq_magic {high low : Byte} : ofBytes high low = 0x5547 ↔ high = 0x55 ∧ low = 0x47 :=
  ofBytes_eq_iff (high' := 0x55) (low' := 0x47)

theorem actionOfCode_isNone (code : BitVec 2) : (actionOfCode code).isNone = true ↔ code = 3#2 := by
  revert code
  decide

section RecordFault
variable {r : Vector Byte 28}

theorem recordFault_badChecksum (sum : (r.toList.map BitVec.toNat).sum % 256 ≠ 0) :
    recordFault r = some .badChecksum :=
  if_pos (mt (recordSum_eq_zero_iff r).mp sum)

variable (sum : (r.toList.map BitVec.toNat).sum % 256 = 0)
include sum

theorem recordFault_badMagic (magic : r[0] ≠ 0x55 ∨ r[1] ≠ 0x47) : recordFault r = some .badMagic := by
  rw [recordFault, if_neg (not_not.mpr ((recordSum_eq_zero_iff r).mpr sum)),
    if_pos (mt ofBytes_eq_magic.mp (not_and_or.mpr magic))]

variable (magic0 : r[0] = 0x55) (magic1 : r[1] = 0x47)
include magic0 magic1

theorem recordFault_badVersion (version : r[2] ≠ 1) : recordFault r = some .badVersion := by
  rw [recordFault, if_neg (not_not.mpr ((recordSum_eq_zero_iff r).mpr sum)),
    if_neg (not_not.mpr (ofBytes_eq_magic.mpr ⟨magic0, magic1⟩)), if_pos version]

variable (version : r[2] = 1)
include version

theorem recordFault_actions :
    recordFault r = if r[11].extractLsb' 4 2 = 3#2 ∨ r[11].extractLsb' 2 2 = 3#2 ∨ r[11].extractLsb' 0 2 = 3#2 then
      some .badAction else none := by
  rw [recordFault, if_neg (not_not.mpr ((recordSum_eq_zero_iff r).mpr sum)),
    if_neg (not_not.mpr (ofBytes_eq_magic.mpr ⟨magic0, magic1⟩)), if_neg (not_not.mpr version)]
  simp only [Bool.or_eq_true, actionOfCode_isNone, or_assoc]

end RecordFault

theorem exec_recordReceived_fault {r : Vector Byte 28} {s : State} {cause : FaultCause} (onBus : attemptOnBus s = true)
    (fault : recordFault r = some cause) :
    ∃ t, exec (.recordReceived r) s = .next t ∧ EntersConfigFault cause [.acknowledge false, .stop] s t := by
  refine ⟨_, ?_, enterConfigFault_enters cause afterLastByte s⟩
  rw [exec, execRecordReceived, if_pos onBus, fault]

/-- Settles O5: each failure with its cause; the checks of a record are made in the order of R4. -/
theorem loadingFailures : Obligations.LoadingFailures := by
  refine ⟨fun s loading deadline retry => ?_, fun s loading retry => ?_, fun s loading deadline => ?_,
    fun r s loading deadline retry => ?_⟩
  · have onBus := attemptOnBus_eq_true loading deadline retry
    refine ⟨fun few => ?_, fun last => ⟨_, ?_, enterConfigFault_enters _ _ s⟩,
      fun stage later => ⟨_, ?_, enterConfigFault_enters _ _ s⟩⟩
    · rw [exec, execAddressNotAcknowledged, if_pos onBus, if_pos rfl, if_pos (by exact few)]
      rfl
    · rw [exec, execAddressNotAcknowledged, if_pos onBus, if_pos rfl, if_neg (by exact Nat.not_lt.mpr last)]
    · rw [exec, execAddressNotAcknowledged, if_pos onBus, if_neg later]
  · rw [exec, execReadRetryDelayExpiry, if_pos ⟨loading, retry⟩]
    rfl
  · refine ⟨_, ?_, enterConfigFault_enters _ _ s⟩
    rw [exec, execLoadingTimeout, if_pos ⟨loading, deadline⟩]
  · have onBus := attemptOnBus_eq_true loading deadline retry
    refine ⟨fun sum => ?_, fun sum magic => ?_, fun sum magic0 magic1 version => ?_,
      fun sum magic0 magic1 version action => ?_⟩
    · exact exec_recordReceived_fault onBus (recordFault_badChecksum sum)
    · exact exec_recordReceived_fault onBus (recordFault_badMagic sum magic)
    · exact exec_recordReceived_fault onBus (recordFault_badVersion sum magic0 magic1 version)
    · refine exec_recordReceived_fault onBus ?_
      rw [recordFault_actions sum magic0 magic1 version, if_pos action]

/-! ### The settle timer -/

@[simp] theorem markAllDirty_rows (s : State) : (markAllDirty s).table.rows = s.table.rows := rfl

@[simp] theorem markAllDirty_digest (s : State) : (markAllDirty s).table.digest = s.table.digest := rfl

/-- Settles O8: the search runs from four dirty flags. -/
theorem settleExpiryOpensService : Obligations.SettleExpiryOpensService := by
  intro s joining runs
  refine ⟨_, by rw [exec, execJoinSettleTimerExpiry, if_pos ⟨joining, runs⟩], ?_, ?_, ?_, ?_, ?_, ?_, ?_, ?_, ?_, ?_, ?_,
    ?_, ?_, ?_, ?_, ?_, ?_, ?_, ?_, ?_⟩
  case refine_2 => exact search_searchFollows rfl (fun h => by simp [markAllDirty]) rfl
  case refine_3 => exact (search_countersBut _ : CountersBut [.recomputes] _ _)
  all_goals simp

/-! ### QUIET, ATTN and RESTART -/

/-- What entry to QUIET leaves (R11, R14, R71). -/
theorem enterQuiet_enters (restart : Bool) (s : State) : EntersQuiet restart s (enterQuiet restart s) := by
  refine ⟨by simp, enterQuiet_bus restart s, by simp, by simp, by simp, by simp, by simp, by simp, by simp, by simp,
    by simp, by simp [enterQuiet], by simp [enterQuiet], by simp, by simp, by simp, ?_, ?_⟩
  · exact fun c other => (search_countersBut _ c other).trans (by simp [counterOf])
  · exact search_searchFollows (by simp) (by simp) (by simp [counterOf])

theorem exec_quiet {s : State} (opened : s.spi = .opened)
    (active : s.control.station = .joining ∨ s.control.station = .operating) :
    exec .quiet s = .next (enterQuiet false { s with spi := .taken 0x5A [] }) := by
  have awake : s.control.station ≠ .loading := by rcases active with h | h <;> rw [h] <;> decide
  have allowed : mayGoQuiet s.control.station = true := by rcases active with h | h <;> rw [h] <;> rfl
  rw [exec, execQuiet, allowed, takeSteering_accepted opened awake]

/-- Settles O9: both requests enter QUIET the same way; ATTN acts at its change alone. -/
theorem quietRequestsTakeStationOffBus : Obligations.QuietRequestsTakeStationOffBus := by
  refine fun s => ⟨fun low active => ?_, fun low notJoining notOperating => ?_, fun high => ?_, rfl,
    fun opened active => ?_⟩
  · have allowed : mayGoQuiet s.control.station = true := by rcases active with h | h <;> rw [h] <;> rfl
    refine ⟨_, ?_, by simp, by simp, enterQuiet_enters false { s with pins := { s.pins with attn := true } }⟩
    rw [exec, execAttentionAssertion, low, if_neg Bool.false_ne_true, if_pos allowed]
  · have refused : mayGoQuiet s.control.station = false := by simp [mayGoQuiet_eq, notJoining, notOperating]
    rw [exec, execAttentionAssertion, low, if_neg Bool.false_ne_true, refused, if_neg Bool.false_ne_true]
  · rw [exec, execAttentionAssertion, if_pos high]
  · exact ⟨_, exec_quiet opened active, by simp, by simp, enterQuiet_enters false { s with spi := .taken 0x5A [] }⟩

theorem leaveRemains_eq_true {b : Bus} :
    leaveRemains b = true ↔
      b.queue.any (fun e => e.kind == .leave) = true ∨ ∃ f, b.inFlight = some f ∧ f.entry.kind = .leave := by
  unfold leaveRemains
  cases b.inFlight <;> simp

theorem exec_restart {s : State} (opened : s.spi = .opened) (awake : s.control.station ≠ .loading) :
    exec .restart s = .next (restartStation { s with spi := .taken 0x5A [] }) := by
  rw [exec, execRestart, takeSteering_accepted opened awake]

/-- Settles O11: the cases of `restartStation`. -/
theorem restartByState : Obligations.RestartByState := by
  have awake : ∀ {station : StationState}, station ≠ .loading → ∀ {s : State}, s.control.station = station →
      s.control.station ≠ .loading := fun h _ same => by rwa [same]
  refine fun s opened => ⟨fun active => ?_, fun quiet pending => ?_, fun quiet still remains => ?_,
    fun quiet still queue flight => ?_, fun ended => ?_⟩
  · have acts : restartStation { s with spi := .taken 0x5A [] } = enterQuiet true { s with spi := .taken 0x5A [] } := by
      rcases active with h | h <;> simp only [restartStation, h]
    refine ⟨_, ?_, by simp, by simp, enterQuiet_enters true { s with spi := .taken 0x5A [] }⟩
    rw [exec_restart opened (by rcases active with h | h <;> rw [h] <;> decide), acts]
  · rw [exec_restart opened (awake (by decide) quiet)]
    simp only [restartStation, quiet, pending, if_true]
  · rw [exec_restart opened (awake (by decide) quiet)]
    simp only [restartStation, quiet, still, leaveRemains_eq_true.mpr remains, if_true, Bool.false_eq_true, if_false]
  · have none : leaveRemains s.bus = false := by
      rw [Bool.eq_false_iff, ne_eq, leaveRemains_eq_true, queue]
      rintro (h | ⟨f, flies, leave⟩)
      · exact absurd h (by decide)
      · exact flight f flies leave
    refine ⟨restartReset { s with spi := .taken 0x5A [] }, ?_, rfl, restartReset_resets rfl rfl rfl⟩
    rw [exec_restart opened (awake (by decide) quiet)]
    simp only [restartStation, quiet, still, none, Bool.false_eq_true, if_false]
  · refine ⟨restartReset { s with spi := .taken 0x5A [] }, ?_, rfl, restartReset_resets rfl rfl rfl⟩
    rcases ended with h | h <;> rw [exec_restart opened (awake (by decide) h)] <;> simp only [restartStation, h]

end Sys2Proof.Machine
end

section
/-! A good record (R4, R6, R7, R8, R178): its clamped fields, and the hand-out that enters JOINING. -/

namespace Sys2Proof.Machine

/-! ### The fields of a record -/

theorem actionOfCode_cases {code : BitVec 2} {x : Action × BitVec 2}
    (hx : x ∈ [(Action.report, 0#2), (Action.degrade, 1#2), (Action.dark, 2#2)]) (h : code = x.2) :
    recordAction code = x.1 := by
  subst h
  revert x
  decide

theorem clampByte_ne_iff {low high : Byte} (range : low ≤ high) (value : Byte) :
    (clampByte low high value != value) = true ↔ value.toNat < low.toNat ∨ high.toNat < value.toNat := by
  rw [bne_iff_ne, ne_eq, ← BitVec.toNat_inj, clampByte_toNat range]
  have := BitVec.le_def.mp range
  omega

/-- A field whose range ends at 255 has its minimum alone to keep. -/
theorem clampByte_toNat_min (value : Byte) : (clampByte 1 255 value).toNat = max 1 value.toNat := by
  have small := value.isLt
  rw [clampByte_toNat (by decide)]
  show min 255 (max 1 value.toNat) = _
  omega

theorem nibble_eq_zero_iff (byte : Byte) : (byte.extractLsb' 0 4 == 0#4) = true ↔ byte.toNat % 16 = 0 := by
  rw [beq_iff_eq, ← BitVec.toNat_inj]
  simp

theorem recordWeight_toNat (byte : Byte) :
    (recordWeight byte).toNat = if byte.getLsbD 7 = true then max 1 (byte.toNat % 16) else byte.toNat % 16 := by
  have low : (byte.extractLsb' 0 4).toNat = byte.toNat % 16 := by simp
  unfold recordWeight
  by_cases enabled : byte.getLsbD 7 = true
  · rw [enabled, Bool.true_and, if_pos rfl]
    split
    next zero =>
      rw [(nibble_eq_zero_iff byte).mp zero]
      rfl
    next some => 
      have := mt (nibble_eq_zero_iff byte).mpr some
      omega
  · rw [Bool.not_eq_true] at enabled
    rw [enabled, if_neg (by simp), if_neg (by simp), low]

theorem recordWeight_ne_iff (byte : Byte) :
    (recordWeight byte != byte.extractLsb' 0 4) = true ↔ byte.getLsbD 7 = true ∧ byte.toNat % 16 = 0 := by
  have low : (byte.extractLsb' 0 4).toNat = byte.toNat % 16 := by simp
  rw [bne_iff_ne, ne_eq, ← BitVec.toNat_inj, recordWeight_toNat, low]
  split <;> simp_all

theorem parameterChecksum_toNat (bucketCode : BitVec 2) (seed : Half) (announce : Byte) :
    (parameterChecksum bucketCode seed announce).toNat =
      (bucketCode.toNat + seed.toNat / 256 + seed.toNat % 256 + announce.toNat) % 256 := by
  have := bucketCode.isLt
  simp only [parameterChecksum, BitVec.toNat_add, BitVec.toNat_setWidth, highByte_toNat, lowByte_toNat]
  omega

theorem recordClamped_iff (r : Vector Byte 28) :
    recordClamped r = true ↔
      r[6] = 0 ∨ r[7].toNat < 2 ∨ 15 < r[7].toNat ∨ r[8] = 0 ∨ 64 < r[8].toNat ∨ r[9] = 0 ∨ r[10] = 0 ∨
      r[12] = 0 ∨ 15 < r[12].toNat ∨ r[13] = 0 ∨ r[14] = 0 ∨ 8 < r[14].toNat ∨ r[15] = 0 ∨
      ∃ p : PortNo, (r[19 + p.val]).getLsbD 7 = true ∧ r[19 + p.val].toNat % 16 = 0 := by
  have zero : ∀ b : Byte, b = 0 ↔ b.toNat = 0 := fun b => by rw [← BitVec.toNat_inj]; rfl
  simp only [recordClamped, recordParams, Bool.or_eq_true, List.any_eq_true, List.mem_finRange, true_and,
    recordWeight_ne_iff, recordPortByte, clampByte_ne_iff (show (1 : Byte) ≤ 255 by decide),
    clampByte_ne_iff (show (2 : Byte) ≤ 15 by decide), clampByte_ne_iff (show (1 : Byte) ≤ 64 by decide),
    clampByte_ne_iff (show (1 : Byte) ≤ 15 by decide), clampByte_ne_iff (show (1 : Byte) ≤ 8 by decide), zero]
  simp only [show (1 : Byte).toNat = 1 by rfl, show (2 : Byte).toNat = 2 by rfl, show (8 : Byte).toNat = 8 by rfl,
    show (15 : Byte).toNat = 15 by rfl, show (64 : Byte).toNat = 64 by rfl, show (255 : Byte).toNat = 255 by rfl]
  have never : ∀ b : Byte, ¬ 255 < b.toNat := fun b => by have := b.isLt; omega
  simp only [never, or_false, Nat.lt_one_iff, or_assoc]

/-- Settles O7. -/
theorem recordFieldsAreClamped : Obligations.RecordFieldsAreClamped := by
  intro r
  refine ⟨rfl, ofBytes_toNat _ _, clampByte_toNat_min _, clampByte_toNat (by decide) _, clampByte_toNat (by decide) _,
    clampByte_toNat_min _, clampByte_toNat_min _, clampByte_toNat (by decide) _, clampByte_toNat_min _,
    clampByte_toNat (by decide) _, clampByte_toNat_min _, rfl,
    fun x hx => ⟨actionOfCode_cases hx, actionOfCode_cases hx, actionOfCode_cases hx⟩, fun p => recordWeight_toNat _,
    recordClamped_iff r, ?_⟩
  have low := r[5].isLt
  have code : (r[3].extractLsb' 0 2).toNat = r[3].toNat % 4 := by simp
  show (parameterChecksum _ _ _).toNat = _
  rw [parameterChecksum_toNat, ofBytes_toNat, clampByte_toNat_min, code]
  omega

end Sys2Proof.Machine
end

section
/-! What follows a change of one row of the candidate table (R106 to R109), and the hand-out of a good record, whose own
row is such a change. -/

namespace Sys2Proof.Machine

/-! ### One row of the candidate table -/

theorem exists_uplink (i : StationNo) (p : PortNo) : ∃ u : UplinkId, stationOf u = i ∧ portOf u = p :=
  ⟨⟨8 * i.val + p.val, by omega⟩, Fin.ext (by simp only [stationOf]; omega), Fin.ext (by simp only [portOf]; omega)⟩

/-- A row brings a new contribution exactly where some uplink has one. -/
theorem rowContributes_iff (i : StationNo) (row : Vector Candidate 8) (rows : Vector (Vector Candidate 8) 16) :
    rowContributes rows[i] row = true ↔
      ∃ u : UplinkId, contribution (candidateAt (rows.set i row) u) ≠ contribution (candidateAt rows u) := by
  simp only [rowContributes, List.any_eq_true, List.mem_finRange, true_and, bne_iff_ne]
  constructor
  · rintro ⟨p, differs⟩
    obtain ⟨u, rfl, rfl⟩ := exists_uplink i p
    exact ⟨u, by rw [candidateAt_set, if_pos rfl]; exact Ne.symm differs⟩
  · rintro ⟨u, differs⟩
    rw [candidateAt_set] at differs
    by_cases here : stationOf u = i
    · rw [if_pos here] at differs
      subst here
      exact ⟨portOf u, Ne.symm differs⟩
    · rw [if_neg here] at differs
      exact absurd rfl differs

section Change
variable {s t : State} (i : StationNo) (row : Vector Candidate 8) (rows : t.table.rows = s.table.rows.set i row)
  (digest : t.table.digest = (changeRow i row s.table).digest)
include rows digest

/-- The table follows a change of one row where the search follows it. -/
theorem tableFollows_of_changeRow (follows : SearchFollows s.engine (Flagged s t) s t) : TableFollows s t := by
  have differs : rowContributes s.table.rows[i] row = true ↔
      ∃ u : UplinkId, contribution (candidateAt t.table.rows u) ≠ contribution (candidateAt s.table.rows u) := by
    rw [rows]
    exact rowContributes_iff i row s.table.rows
  refine ⟨fun same => ?_, fun some => ?_, follows⟩
  · have keeps : rowContributes s.table.rows[i] row = false := by
      rw [Bool.eq_false_iff, ne_eq, differs]
      exact fun ⟨u, h⟩ => h (same u)
    rw [digest, changeRow, keeps]
    rfl
  · rw [digest, rows, changeRow, differs.mpr some]
    rfl

end Change

/-- An event whose search runs on a changed row (R106 to R109, R137). -/
theorem tableFollows_search {s u : State} (i : StationNo) (row : Vector Candidate 8)
    (table : u.table = changeRow i row s.table) (engine : u.engine = s.engine)
    (recomputes : counterOf .recomputes u = counterOf .recomputes s) : TableFollows s (search u) := by
  have rows : (search u).table.rows = s.table.rows.set i row := by rw [search_rows, table]; rfl
  refine tableFollows_of_changeRow i row rows (by rw [search_digest, table]) ?_
  exact search_searchFollows engine (fun g => by rw [table]; exact changeRow_flagged i row rows g) recomputes

/-- Where the station state holds the engine back, nothing follows the flags (R138). -/
theorem searchFollows_of_held {s t : State} {flagged : Group → Prop} (held : engineMayStart t.control.station = false)
    (engine : t.engine = s.engine) (recomputes : counterOf .recomputes t = counterOf .recomputes s)
    (dirty : ∀ h : Group, t.table.dirty[h] = true ↔ flagged h) : SearchFollows s.engine flagged s t :=
  ⟨fun _ _ may => absurd may (by rw [held]; decide), fun _ => ⟨engine, recomputes, dirty⟩⟩

/-! ### The hand-out of a good record -/

theorem extractLsb'_toNat_group (byte : Byte) : (byte.extractLsb' 4 2).toNat = (byte.toNat >>> 4) % 4 := by
  simp

theorem startedPorts_get (r : Vector Byte 28) (los : Vector Bool 8) (p : PortNo) :
    (startedPorts r los)[p] = startedPort (recordPortByte r p) los[p] := by
  simp [startedPorts]

theorem handOut_table (r : Vector Byte 28) (s : State) :
    (handOut r s).table = changeRow s.control.number (ownRow (handOut r s)) s.table := rfl

theorem enterJoining_bus {s : State} (free : leaveStands s.bus = false) (none : ∀ e ∈ s.bus.queue, e.kind ≠ .join) :
    (enterJoining s).bus = { s.bus with
      recovery := .seek, missed := 0, line := .idle, idleCount := 0
      queue := s.bus.queue ++ [{ kind := .join, urgent := false, attempts := 0 }] } :=
  congrArg State.bus (demand_queued (d := .join) (by decide) (s := { s with
    control := { s.control with station := .joining, settle := settleTime s.params }
    notices := { s.notices with announce := announceTime s.params }
    cadenceTimer := cadenceTime s.params
    errorTimer := errorTime s.params
    bus := { s.bus with recovery := .seek, missed := 0, line := .idle, idleCount := 0 } }) rfl free none)

/-- Settles O6: the record is handed out in LOADING, where the queue is empty and the engine held, and JOINING is
entered from there. -/
theorem goodRecordEntersJoining : Obligations.GoodRecordEntersJoining := by
  intro r s loading deadline retry queue flight sum magic0 magic1 version code slip frame
  have good : recordFault r = none := by
    rw [recordFault_actions sum magic0 magic1 version, if_neg]
    exact not_or.mpr ⟨code, not_or.mpr ⟨slip, frame⟩⟩
  have announce : (recordParams r).announce.toNat = max 1 r[6].toNat := clampByte_toNat_min _
  have cadence : (recordParams r).cadenceWindow.toNat = min 64 (max 1 r[8].toNat) := clampByte_toNat (by decide) _
  have error : (recordParams r).errorWindow.toNat = max 1 r[9].toNat := clampByte_toNat_min _
  have ports : (enterJoining (handOut r s)).ports = startedPorts r s.pins.los := by rw [enterJoining_ports]; rfl
  have rows := enterJoining_handOut_rows r s
  have table := (enterJoining_table (handOut r s)).trans (handOut_table r s)
  refine ⟨enterJoining (handOut r s), ?_, by simp; rfl, ?_, by simp; rfl, ?_, ?_, ?_, ?_, fun p => ?_, ?_, ?_,
    fun i other => ?_, by simp; rfl, by simp; rfl, by simp; rfl, by simp, by simp, by simp, by simp, by simp, by simp,
    by simp, by simp, by simp⟩
  · rw [exec, execRecordReceived, if_pos (attemptOnBus_eq_true loading deadline retry), good]
  · rw [enterJoining_control, ← announce]
    rfl
  · rw [enterJoining, demand_notices, ← announce]
    rfl
  · rw [enterJoining, demand_cadenceTimer, ← cadence]
    rfl
  · rw [enterJoining, demand_errorTimer, ← error]
    rfl
  · have free : leaveStands s.bus = false := leaveStands_eq_false.mpr (by simp [queue, flight])
    have none : ∀ e ∈ s.bus.queue, e.kind ≠ .join := by rw [queue]; exact nofun
    rw [enterJoining_bus (s := handOut r s) free none, handOut_bus, queue]
    rfl
  · rw [ports, startedPorts_get]
    exact ⟨rfl, (extractLsb'_toNat_group _).symm, rfl, rfl, rfl, rfl, rfl, rfl, rfl, rfl, rfl⟩
  · rw [rows, row_set_same]
  · refine tableFollows_of_changeRow s.control.number (ownRow (handOut r s)) (by rw [table]; rfl) (by rw [table]) ?_
    refine searchFollows_of_held (by simp; rfl) (by simp) (by simp [counterOf]) fun g => ?_
    rw [← changeRow_flagged s.control.number (ownRow (handOut r s)) (by rw [table]; rfl), table]
  · rw [rows, row_set_ne other]

end Sys2Proof.Machine
end

section
/-! What every event at the port monitors leaves: the frame, the graders, the demands and the raises that follow the
ports (R30 to R32, R35, R47). -/

namespace Sys2Proof.Machine

/-! ### The demands of one event -/

/-- A demand merges into what it has queued. -/
theorem mergeDemand_mergeDemand (d : Demand) (queue : List QueueEntry) :
    mergeDemand d (mergeDemand d queue) = mergeDemand d queue := by
  unfold mergeDemand
  by_cases queued : queue.any (fun e => e.kind == demandKind d) = true
  · have again : (queue.map fun e => if e.kind = demandKind d then { e with urgent := e.urgent || d == .alert } else e).any
        (fun e => e.kind == demandKind d) = true := by
      obtain ⟨e, he, kind⟩ := List.any_eq_true.mp queued
      exact List.any_eq_true.mpr ⟨_, List.mem_map_of_mem he, by split <;> exact kind⟩
    rw [if_pos queued, if_pos again, List.map_map]
    refine List.map_congr_left fun e _ => ?_
    by_cases kind : e.kind = demandKind d <;> simp [kind]
  · have none : ∀ e ∈ queue, e.kind ≠ demandKind d := by simpa using queued
    have again : (queue ++ [(⟨demandKind d, d == .alert, 0⟩ : QueueEntry)]).any
        (fun e => e.kind == demandKind d) = true := by simp
    rw [if_neg queued, if_pos again, List.map_append]
    congr 1
    · exact (List.map_congr_left fun e he => if_neg (none e he)).trans (List.map_id _)
    · simp

theorem demand_demand {d : Demand} (notLeave : d ≠ .leave) (s : State) : demand d (demand d s) = demand d s := by
  by_cases allowed : transmitAllowed s.control.station (demandKind d) = true
  · by_cases stands : leaveStands s.bus = true
    · rw [demand_dropped notLeave (.inr stands), demand_dropped notLeave (.inr stands)]
    · have queued : demand d s = { s with bus := { s.bus with queue := mergeDemand d s.bus.queue } } := by
        rw [demand, if_pos allowed, queueDemand, if_neg notLeave, if_neg stands]
      by_cases standsNow : leaveStands (demand d s).bus = true
      · exact demand_dropped notLeave (.inr standsNow)
      · have allowedNow : transmitAllowed (demand d s).control.station (demandKind d) = true := by
          rwa [demand_control]
        conv_lhs => rw [demand, if_pos allowedNow, queueDemand, if_neg notLeave, if_neg standsNow]
        rw [queued]
        simp only [mergeDemand_mergeDemand]
  · have dropped : demand d s = s := demand_dropped notLeave (.inl (by simpa using allowed))
    rw [dropped, dropped]

/-- Demands that are all the same are one. -/
theorem demands_same {d : Demand} (notLeave : d ≠ .leave) {ds : List Demand} (same : ∀ x ∈ ds, x = d) (some : ds ≠ [])
    (s : State) : demands ds s = demand d s := by
  induction ds generalizing s with
  | nil => exact absurd rfl some
  | cons x ds ih =>
    obtain rfl := same x (by simp)
    by_cases none : ds = []
    · rw [none]
      rfl
    · show demands ds (demand x s) = _
      rw [ih (fun y hy => same y (by simp [hy])) none, demand_demand notLeave]

theorem demands_none {s t : State} {ds : List Demand} (bus : t.bus = (demands ds s).bus) (none : ds = []) :
    DemandsNothing s t := by
  subst none
  rw [DemandsNothing, bus]
  exact ⟨rfl, rfl⟩

/-- Where every demand of an event is the same one, that one has been made. -/
theorem demands_all {s t : State} {ds : List Demand} (bus : t.bus = (demands ds s).bus) {d : Demand}
    (notLeave : d ≠ .leave) (same : ∀ x ∈ ds, x = d) (some : ds ≠ []) :
    Demands (demandKind d) (d == .alert) s t := by
  have made := demand_demands notLeave s
  rw [← demands_same notLeave same some] at made
  unfold Demands DemandsNothing at made ⊢
  rwa [bus]

/-! ### A change of some ports -/

/-- What a change of the ports raises by itself (R32). -/
def portRaises (s : State) (ports : Vector Port 8) : List Raise :=
  (List.finRange 8).filterMap fun p => portRaise p s.ports[p] ports[p]

section Moves
variable (ports : Vector Port 8) (rs : List Raise) (s : State)

theorem movePorts_monitorFrame : MonitorFrame s (movePorts ports rs s) := by
  refine ⟨by simp, by simp, by simp, by simp, by simp, by simp, by simp, by simp, ?_, ?_, fun i other => ?_, ?_⟩
  · have made := demands_bus (portDemands s ports) s
    rw [BusDemandsOnly] at made ⊢
    rw [movePorts_bus]
    exact made
  · exact tableFollows_search s.control.number _ (by rw [raiseEvents_table, demands_table]) (by simp)
      (by simp [counterOf])
  · rw [movePorts_rows, row_set_ne other]
  · rw [movePorts_rows, row_set_same, ownRow_movePorts]

theorem movePorts_gradersFollow : GradersFollow s (movePorts ports rs s) := by
  intro p
  simp [graderAfter]

theorem movePorts_countersBut : CountersBut [.recomputes] s (movePorts ports rs s) := fun c other =>
  (search_countersBut _ c other).trans (by simp [counterOf])

theorem movePorts_raises : Raises (rs ++ portRaises s ports) s (movePorts ports rs s) := by
  have raised := raiseEvents_raises (rs ++ portRaises s ports)
    (demands (portDemands s ports) { s with
      ports := ports
      graders := Vector.ofFn fun p => graderAfter ports[p] s.graders[p]
      table := changeRow s.control.number
        (Vector.ofFn fun p => ownCandidate s.params.rampSteps.toNat ports[p]) s.table })
  unfold Raises at raised ⊢
  rw [demands_events] at raised
  rwa [movePorts, search_events]

end Moves

/-! ### A change of one port -/

theorem filterMap_single {α β : Type} {f : α → Option β} {a : α} {l : List α} (nodup : l.Nodup) (mem : a ∈ l)
    (others : ∀ b, b ≠ a → f b = none) : l.filterMap f = (f a).toList := by
  induction l with
  | nil => cases mem
  | cons b l ih =>
    obtain ⟨fresh, nodup⟩ := List.nodup_cons.mp nodup
    by_cases here : b = a
    · subst here
      have rest : l.filterMap f = [] :=
        List.filterMap_eq_nil_iff.mpr fun c hc => others c fun same => fresh (same ▸ hc)
      cases h : f b <;> simp [h, rest]
    · rw [List.filterMap_cons_none (others b here)]
      exact ih nodup ((List.mem_cons.mp mem).resolve_left (Ne.symm here))

theorem portDemand_self (r : Nat) (p : Port) : portDemand r p p = none := by
  unfold portDemand
  cases p.condition <;> simp [carriesTraffic]

theorem portRaise_self (i : PortNo) (p : Port) : portRaise i p p = none := by
  unfold portRaise
  cases p.condition <;> simp [carriesTraffic]

theorem port_set_same (ports : Vector Port 8) (p : PortNo) (port : Port) : (ports.set p port)[p] = port := by simp

theorem port_set_other (ports : Vector Port 8) {p q : PortNo} (other : q ≠ p) (port : Port) :
    (ports.set p port)[q] = ports[q] := by
  have apart : (p : Nat) ≠ q := fun same => other (Fin.ext same.symm)
  simp [Vector.getElem_set_ne, apart]

section Move
variable (p : PortNo) (port : Port) (s : State)

theorem portDemands_set :
    portDemands s (s.ports.set p port) = (portDemand s.params.rampSteps.toNat s.ports[p] port).toList := by
  rw [portDemands, filterMap_single (List.nodup_finRange 8) (List.mem_finRange p), port_set_same]
  intro q other
  rw [port_set_other s.ports other, portDemand_self]

theorem portRaises_set : portRaises s (s.ports.set p port) = (portRaise p s.ports[p] port).toList := by
  rw [portRaises, filterMap_single (List.nodup_finRange 8) (List.mem_finRange p), port_set_same]
  intro q other
  rw [port_set_other s.ports other, portRaise_self]

theorem movePorts_set_bus (rs : List Raise) :
    (movePorts (s.ports.set p port) rs s).bus =
      (demands (portDemand s.params.rampSteps.toNat s.ports[p] port).toList s).bus := by
  rw [movePorts_bus, portDemands_set]

theorem movePorts_set_raises (rs : List Raise) :
    Raises (rs ++ (portRaise p s.ports[p] port).toList) s (movePorts (s.ports.set p port) rs s) := by
  rw [← portRaises_set]
  exact movePorts_raises (s.ports.set p port) rs s

variable {p port s}

theorem movePorts_set_demands {d : Demand} (h : portDemand s.params.rampSteps.toNat s.ports[p] port = some d)
    (rs : List Raise) : Demands (demandKind d) (d == .alert) s (movePorts (s.ports.set p port) rs s) :=
  demands_all (movePorts_set_bus p port s rs) (portDemand_ne_leave h) (by rw [h]; simp) (by rw [h]; simp)

theorem movePorts_set_demandsNothing (h : portDemand s.params.rampSteps.toNat s.ports[p] port = none)
    (rs : List Raise) : DemandsNothing s (movePorts (s.ports.set p port) rs s) :=
  demands_none (movePorts_set_bus p port s rs) (by rw [h]; rfl)

theorem movePort_raises {r : Raise} (h : portRaise p s.ports[p] port = some r) :
    Raises [r] s (movePort p port s) := by
  have raised := movePorts_set_raises p port s []
  rwa [h] at raised

theorem movePort_events (h : portRaise p s.ports[p] port = none) : (movePort p port s).events = s.events := by
  have raised := movePorts_set_raises p port s []
  rw [h] at raised
  exact raised.1 rfl

end Move

end Sys2Proof.Machine
end

section
/-! The light monitor's events at one port (chapter 2): DRAIN, UNDRAIN, LOS, the cadence, and the expiries of the restore
and the ramp timer. -/

namespace Sys2Proof.Machine

/-! ### The effective weight (R20, R123) -/

theorem rampWeight_le (w : Nat) {k r : Nat} (positive : 1 ≤ r) (within : k ≤ r) : (w * k + r - 1) / r ≤ w := by
  have most : w * k ≤ w * r := Nat.mul_le_mul_left w within
  rw [← Nat.lt_succ_iff, Nat.div_lt_iff_lt_mul positive, Nat.succ_mul]
  omega

theorem one_le_rampWeight {w k r : Nat} (weight : 1 ≤ w) (step : 1 ≤ k) (positive : 1 ≤ r) :
    1 ≤ (w * k + r - 1) / r := by
  have product : 1 ≤ w * k := Nat.mul_pos weight step
  exact (Nat.le_div_iff_mul_le positive).mpr (by omega)

theorem effectiveWeight_ramping {p : Port} {r : Nat} (ramping : p.condition = .ramping)
    (small : (p.weight.toNat * p.step + r - 1) / r < 16) :
    (effectiveWeight r p).toNat = (p.weight.toNat * p.step + r - 1) / r := by
  rw [effectiveWeight, ramping]
  simp [Nat.mod_eq_of_lt small]

/-- Settles O24. -/
theorem effectiveWeights : Obligations.EffectiveWeights := by
  intro p r weight steps _
  have most := p.weight.isLt
  refine ⟨fun lit => by rw [effectiveWeight, lit], fun ramping step below => ?_, fun degraded => ?_, fun dark => ?_⟩
  · have least := one_le_rampWeight weight step steps
    have bound := rampWeight_le p.weight.toNat steps below.le
    have next := rampWeight_le p.weight.toNat steps (k := p.step + 1) below
    have value := effectiveWeight_ramping ramping (r := r) (by omega)
    have grows : (p.weight.toNat * p.step + r - 1) / r ≤ (p.weight.toNat * (p.step + 1) + r - 1) / r := by
      refine Nat.div_le_div_right ?_
      have : p.weight.toNat * p.step ≤ p.weight.toNat * (p.step + 1) := Nat.mul_le_mul_left _ (Nat.le_succ _)
      omega
    refine ⟨value, by omega, by omega, ?_⟩
    rw [value, effectiveWeight_ramping (p := { p with step := p.step + 1 }) ramping (next.trans_lt most)]
    exact grows
  · have value : (effectiveWeight r p).toNat = max 1 (p.weight.toNat / 2) := by
      rw [effectiveWeight, degraded]
      dsimp only
      split
      next zero => 
        rw [zero]
        rfl
      next some =>
        rw [BitVec.toNat_ofNat, Nat.mod_eq_of_lt (by omega)]
        omega
    exact ⟨value, fun _ => by omega⟩
  · unfold effectiveWeight
    revert dark
    cases p.condition <;> simp [carriesTraffic]

/-! ### DRAIN and UNDRAIN -/

theorem portOfByte_ofNat (p : PortNo) : portOfByte (BitVec.ofNat 8 p.val) = p := by
  revert p
  decide

theorem portByte_inRange (p : PortNo) : decide (8 ≤ (BitVec.ofNat 8 p.val).toNat) = false := by
  revert p
  decide

theorem awake_of_receiveOn {s : State} (on : receiveOn s.control.station = true) : s.control.station ≠ .loading := by
  rintro h
  rw [h] at on
  cases on

section Steering
variable {p : PortNo} {port : Byte} {s : State} (named : portOfByte port = p) (inRange : decide (8 ≤ port.toNat) = false)
  (opened : s.spi = .opened) (on : receiveOn s.control.station = true)
include named inRange opened on

theorem exec_drain (configured : s.ports[p].condition ≠ .off) :
    exec (.drain port) s = .next (drainPort p { s with spi := .taken 0x5A [] }) := by
  subst named
  have notOff : (s.ports[portOfByte port].condition == .off) = false := by rw [beq_eq_false_iff_ne]; exact configured
  rw [exec, execDrain, inRange, on, notOff, takeSteering_accepted opened (awake_of_receiveOn on)]

theorem exec_undrain (drained : s.ports[p].condition = .drained) :
    exec (.undrain port) s =
      .next (movePort p (undrainedPort s.params s.ports[p]) { s with spi := .taken 0x5A [] }) := by
  subst named
  rw [exec, execUndrain, inRange, on, drained]
  exact congrArg Host.Outcome.next (takeSteering_accepted opened (awake_of_receiveOn on)
    fun s => movePort (portOfByte port) (undrainedPort s.params s.ports[portOfByte port]) s)

end Steering

/-- What every move of one port leaves, as the statements about its commands list it. -/
theorem movePort_leaves (p : PortNo) (port : Port) (s : State) :
    (∀ q : PortNo, q ≠ p → (movePort p port s).ports[q] = s.ports[q]) ∧ GradersFollow s (movePort p port s) ∧
      MonitorFrame s (movePort p port s) ∧ CountersBut [.recomputes] s (movePort p port s) ∧
      (movePort p port s).pins = s.pins ∧ (movePort p port s).cadenceTimer = s.cadenceTimer ∧
      (movePort p port s).errorTimer = s.errorTimer :=
  ⟨fun q other => by rw [movePort_ports, port_set_other s.ports other], movePorts_gradersFollow _ _ s,
    movePorts_monitorFrame _ _ s, movePorts_countersBut _ _ s, by simp, by simp, by simp⟩

theorem movePort_port (p : PortNo) (port : Port) (s : State) : (movePort p port s).ports[p] = port := by
  rw [movePort_ports, port_set_same]

/-- Settles O19. -/
theorem drainTakesPortOut : Obligations.DrainTakesPortOut := by
  refine fun p s opened on => ⟨fun drained => ?_, fun configured served => ?_⟩
  · rw [exec_drain (portOfByte_ofNat p) (portByte_inRange p) opened on (by rw [drained]; decide), drainPort, if_pos drained]
  · have taken := exec_drain (portOfByte_ofNat p) (portByte_inRange p) opened on configured
    rw [drainPort, if_neg served] at taken
    have demanded : portDemand s.params.rampSteps.toNat s.ports[p] (settledPort .drained s.ports[p]) = some .alert := by
      rw [portDemand, if_neg (fun h => by cases h.2), if_pos ⟨configured, served, rfl⟩]
    have raised : portRaise p s.ports[p] (settledPort .drained s.ports[p]) = none := by
      simp [portRaise, settledPort]
    obtain ⟨others, graders, frame, counters, pins, cadence, error⟩ :=
      movePort_leaves p (settledPort .drained s.ports[p]) { s with spi := .taken 0x5A [] }
    refine ⟨_, taken, by simp, movePort_port p _ _, others, ?_, graders,
      movePorts_set_demands (s := { s with spi := .taken 0x5A [] }) demanded [],
      movePort_events (s := { s with spi := .taken 0x5A [] }) raised, frame, counters, pins, cadence, error⟩
    rw [graders p, movePort_port]
    rfl

section PortMoves
variable {params : Params} {p : Port}

/-- A port that begins to serve, from a condition without traffic (R23, R29, R31). -/
theorem portDemand_beginService (dark : carriesTraffic p.condition = false) :
    portDemand params.rampSteps.toNat p (beginService params p) = some .state := by
  have serves : carriesTraffic (beginService params p).condition = true := by
    unfold beginService
    split <;> rfl
  have served : (beginService params p).condition ≠ .drained := by
    intro h
    rw [h] at serves
    cases serves
  rw [portDemand, if_neg (fun h => by simp [dark] at h), if_neg (fun h => served h.2.2),
    if_pos ⟨by simp [dark], serves⟩]

theorem beginService_ramps (ramps : 2 ≤ params.rampSteps.toNat) :
    beginService params p = { p with
      condition := .ramping, step := 1, restore := .stopped
      ramp := .running (params.rampInterval.toNat * 1000000) } :=
  if_neg (by omega)

theorem beginService_lit (one : params.rampSteps.toNat = 1) :
    beginService params p = { p with condition := .lit, step := 0, restore := .stopped, ramp := .stopped } :=
  if_pos (by omega)

theorem portRaise_ramping (i : PortNo) {new : Port} (ramping : new.condition = .ramping) :
    portRaise i p new = none := by
  simp [portRaise, ramping]

theorem portRaise_lit (i : PortNo) {new : Port} (lit : new.condition = .lit) (notLit : p.condition ≠ .lit)
    (notOff : p.condition ≠ .off) (notDark : p.condition ≠ .dark) :
    portRaise i p new = some (raiseAbout .uplinkRestored i.val) := by
  simp [portRaise, lit, notLit, notOff, notDark]

/-- A port without traffic that goes or stays dark: nothing is demanded (R31) and nothing raised (R32). -/
theorem portDemand_dark {r : Nat} {new : Port} (before : carriesTraffic p.condition = false) (dark : new.condition = .dark) :
    portDemand r p new = none := by
  unfold portDemand
  rw [dark]
  revert before
  cases p.condition <;> simp [carriesTraffic]

theorem portRaise_dark (i : PortNo) {new : Port} (before : carriesTraffic p.condition = false)
    (dark : new.condition = .dark) : portRaise i p new = none := by
  simp [portRaise, before, dark]

/-- A port with traffic that goes dark (R31, R32). -/
theorem portDemand_darkens {r : Nat} {new : Port} (before : carriesTraffic p.condition = true)
    (dark : new.condition = .dark) : portDemand r p new = some .alert :=
  if_pos ⟨before, dark⟩

theorem portRaise_darkens (i : PortNo) {new : Port} (before : carriesTraffic p.condition = true)
    (dark : new.condition = .dark) : portRaise i p new = some (raiseAbout .uplinkDark i.val) :=
  if_pos ⟨before, dark⟩

end PortMoves

/-- Settles O20. -/
theorem undrainReturnsPort : Obligations.UndrainReturnsPort := by
  intro p s opened on drained
  have dark : carriesTraffic s.ports[p].condition = false := by rw [drained]; rfl
  obtain ⟨others, graders, frame, counters, pins, cadence, error⟩ :=
    movePort_leaves p (undrainedPort s.params s.ports[p]) { s with spi := .taken 0x5A [] }
  have demands := movePorts_set_demands (p := p) (port := beginService s.params s.ports[p])
    (s := { s with spi := .taken 0x5A [] }) (portDemand_beginService dark) []
  refine ⟨_, exec_undrain (portOfByte_ofNat p) (portByte_inRange p) opened on drained, by simp, fun lit ramps => ?_,
    fun lit one => ?_, fun unlit => ?_, others, graders, frame, counters, pins, cadence, error⟩
  · rw [undrainedPort, if_neg lit]
    refine ⟨?_, demands, movePort_events (s := { s with spi := .taken 0x5A [] }) (portRaise_ramping p ?_)⟩
    · rw [movePort_port, beginService_ramps ramps]
    · rw [beginService_ramps ramps]
  · rw [undrainedPort, if_neg lit]
    refine ⟨?_, demands, movePort_raises (s := { s with spi := .taken 0x5A [] }) (portRaise_lit p ?_ ?_ ?_ ?_)⟩
    · rw [movePort_port, beginService_lit one]
    · rw [beginService_lit one]
    · exact fun h => absurd (drained.symm.trans h) (by decide)
    · exact fun h => absurd (drained.symm.trans h) (by decide)
    · exact fun h => absurd (drained.symm.trans h) (by decide)
  · rw [undrainedPort, if_pos unlit]
    exact ⟨movePort_port p _ _,
      movePorts_set_demandsNothing (s := { s with spi := .taken 0x5A [] }) (portDemand_dark dark rfl) [],
      movePort_events (s := { s with spi := .taken 0x5A [] }) (portRaise_dark p dark rfl)⟩

/-! ### The expiries of the restore and the ramp timer -/

theorem portDemand_ramping {r : Nat} {old new : Port} (before : old.condition = .ramping)
    (after : new.condition = .ramping) :
    portDemand r old new = if effectiveWeight r old ≠ effectiveWeight r new then some .state else none := by
  simp [portDemand, before, after, carriesTraffic]

theorem portDemand_ramped {r : Nat} {old new : Port} (before : old.condition = .ramping) (after : new.condition = .lit) :
    portDemand r old new = some .state := by
  simp [portDemand, before, after, carriesTraffic]

/-- Settles O23. -/
theorem restoreAndRampExpiries : Obligations.RestoreAndRampExpiries := by
  refine fun p s => ⟨fun holding runs => ?_, fun ramping runs => ?_⟩
  · obtain ⟨others, graders, frame, counters, pins, cadence, error⟩ :=
      movePort_leaves p (beginService s.params s.ports[p]) s
    have dark : carriesTraffic s.ports[p].condition = false := by rw [holding]; rfl
    refine ⟨movePort p (beginService s.params s.ports[p]) s, ?_, fun ramps => ⟨?_, movePort_events (portRaise_ramping p ?_)⟩,
      fun one => ⟨?_, movePort_raises (portRaise_lit p ?_ ?_ ?_ ?_)⟩,
      movePorts_set_demands (portDemand_beginService dark) [], others, graders, frame, counters, pins, cadence, error,
      by simp⟩
    · rw [exec, execRestoreTimerExpiry, if_pos ⟨holding, runs⟩]
    · rw [movePort_port, beginService_ramps ramps]
    · rw [beginService_ramps ramps]
    · rw [movePort_port, beginService_lit one]
    · rw [beginService_lit one]
    · rw [holding]; decide
    · rw [holding]; decide
    · rw [holding]; decide
  · obtain ⟨others, graders, frame, counters, pins, cadence, error⟩ :=
      movePort_leaves p (steppedPort s.params s.ports[p]) s
    refine ⟨movePort p (steppedPort s.params s.ports[p]) s, ?_, fun more => ?_, fun last => ?_, others, graders, frame,
      counters, pins, cadence, error, by simp⟩
    · rw [exec, execRampTimerExpiry, if_pos ⟨ramping, runs⟩]
    · have steps : steppedPort s.params s.ports[p] = { s.ports[p] with
          step := s.ports[p].step + 1, ramp := .running (s.params.rampInterval.toNat * 1000000) } :=
        if_neg (Nat.not_le.mpr more)
      have demand := portDemand_ramping (r := s.params.rampSteps.toNat) ramping
        (new := steppedPort s.params s.ports[p]) (by rw [steps]; exact ramping)
      refine ⟨(movePort_port p _ s).trans steps, movePort_events (portRaise_ramping p (by rw [steps]; exact ramping)),
        fun differs => ?_, fun same => ?_⟩
      · rw [movePort_port] at differs
        exact movePorts_set_demands (demand.trans (if_pos differs.symm)) []
      · rw [movePort_port] at same
        exact movePorts_set_demandsNothing (demand.trans (if_neg (not_not.mpr same.symm))) []
    · have lit : steppedPort s.params s.ports[p] = settledPort .lit s.ports[p] := if_pos last.ge
      rw [lit]
      refine ⟨movePort_port p _ s, movePort_raises (portRaise_lit p rfl ?_ ?_ ?_),
        movePorts_set_demands (portDemand_ramped ramping rfl) []⟩
      · rw [ramping]; decide
      · rw [ramping]; decide
      · rw [ramping]; decide

/-! ### The lines of a port -/

theorem loseLight_dark {p : Port} (loses : p.condition = .holding ∨ carriesTraffic p.condition = true) :
    loseLight p = settledPort .dark p := by
  unfold loseLight
  revert loses
  cases p.condition <;> simp [carriesTraffic]

theorem loseLight_same {p : Port} (holds : p.condition ≠ .holding) (dark : carriesTraffic p.condition = false) :
    loseLight p = p := by
  unfold loseLight
  revert holds dark
  cases p.condition <;> simp [carriesTraffic]

theorem portDemand_still {r : Nat} {old new : Port} (dark : carriesTraffic old.condition = false)
    (same : new.condition = old.condition) : portDemand r old new = none := by
  unfold portDemand
  rw [same]
  revert dark
  cases old.condition <;> simp [carriesTraffic]

theorem portRaise_still (i : PortNo) {old new : Port} (same : new.condition = old.condition) :
    portRaise i old new = none := by
  unfold portRaise
  rw [same]
  cases old.condition <;> simp [carriesTraffic]

theorem sampling_eq_true {s : State} {p : PortNo} :
    sampling s p = true ↔ isRunning s.cadenceTimer = true ∧ s.ports[p].enabled = true := by
  rw [sampling, Bool.and_eq_true]

theorem sampling_eq_false {s : State} {p : PortNo}
    (off : isRunning s.cadenceTimer = false ∨ s.ports[p].enabled = false) : sampling s p = false := by
  rw [sampling, Bool.and_eq_false_iff]
  exact off

/-- Settles O22. -/
theorem monitorInputsChange : Obligations.MonitorInputsChange := by
  refine fun p s => ⟨⟨_, rfl, rfl, rfl, fun runs enabled => ?_, fun off => ?_, fun q other => ?_⟩, rfl,
    fun low => ⟨fun runs enabled lit => ?_, fun off => ?_, fun runs enabled unlit => ?_⟩⟩
  · show (if sampling s p then _ else _)[p] = _
    rw [if_pos (sampling_eq_true.mpr ⟨runs, enabled⟩), port_set_same]
  · exact if_neg (by rw [sampling_eq_false off]; decide)
  · show (if sampling s p then _ else s.ports)[q] = _
    split
    · exact port_set_other s.ports other _
    · rfl
  · obtain ⟨others, graders, frame, counters, pins, cadence, error⟩ :=
      movePort_leaves p { loseLight s.ports[p] with light := .noLight, losSeen := true }
        { s with pins := { s.pins with los := s.pins.los.set p true } }
    refine ⟨_, ?_, fun loses => ?_, fun holds dark => ⟨?_, ?_, ?_⟩, fun holding => ⟨?_, ?_⟩, fun serves => ⟨?_, ?_⟩, others, graders, pins, frame,
      counters, cadence, error, movePort_spi _ _ _⟩
    · rw [exec, execLosAssertion, low, if_neg Bool.false_ne_true, if_pos ⟨sampling_eq_true.mpr ⟨runs, enabled⟩, lit⟩]
    · rw [movePort_port, loseLight_dark loses]
      rfl
    · rw [movePort_port, loseLight_same holds dark]
    · exact movePorts_set_demandsNothing (s := { s with pins := { s.pins with los := s.pins.los.set p true } })
        (portDemand_still dark (by rw [loseLight_same holds dark])) []
    · exact movePort_events (s := { s with pins := { s.pins with los := s.pins.los.set p true } })
        (portRaise_still p (by rw [loseLight_same holds dark]))
    · exact movePorts_set_demandsNothing (s := { s with pins := { s.pins with los := s.pins.los.set p true } })
        (portDemand_dark (by rw [holding]; rfl) (by rw [loseLight_dark (.inl holding)]; rfl)) []
    · exact movePort_events (s := { s with pins := { s.pins with los := s.pins.los.set p true } })
        (portRaise_dark p (by rw [holding]; rfl) (by rw [loseLight_dark (.inl holding)]; rfl))
    · exact movePort_raises (s := { s with pins := { s.pins with los := s.pins.los.set p true } })
        (portRaise_darkens p serves (by rw [loseLight_dark (.inr serves)]; rfl))
    · exact movePorts_set_demands (s := { s with pins := { s.pins with los := s.pins.los.set p true } })
        (portDemand_darkens serves (by rw [loseLight_dark (.inr serves)]; rfl)) []
  · have still := sampling_eq_false off
    rw [exec, execLosAssertion, low, if_neg Bool.false_ne_true, still, if_neg (fun h => by cases h.1)]
    rfl
  · rw [exec, execLosAssertion, low, if_neg Bool.false_ne_true, if_neg (fun h => h.2 unlit),
      if_pos (sampling_eq_true.mpr ⟨runs, enabled⟩)]

end Sys2Proof.Machine
end

section
/-! The events that judge ports together (chapters 2 and 3): the cadence window, an error pulse, and the error window. -/

namespace Sys2Proof.Machine

/-! ### A frame from a state of which some counts have moved -/

theorem SearchFollows.of_recomputes {e : Engine} {flagged : Group → Prop} {s u t : State}
    (same : counterOf .recomputes u = counterOf .recomputes s) (h : SearchFollows e flagged u t) :
    SearchFollows e flagged s t := by
  unfold SearchFollows at h ⊢
  rwa [same] at h

/-! ### The cadence window -/

theorem repeat_saturatingHalf_toNat (n : Nat) (start : Half) :
    (Nat.repeat saturatingHalf n start).toNat = min 65535 (start.toNat + n) := by
  induction n with
  | zero =>
    have := start.isLt
    show start.toNat = _
    omega
  | succ n ih =>
    have step : ∀ h : Half, (saturatingHalf h).toNat = min 65535 (h.toNat + 1) := by
      intro h
      unfold saturatingHalf
      split
      next full => rw [full]; rfl
      next below => bv_omega
    show (saturatingHalf (Nat.repeat saturatingHalf n start)).toNat = _
    rw [step, ih]
    omega

@[simp] theorem counterOf_bumpTimes_same (c : Counter) (n : Nat) (s : State) :
    counterOf c (bumpTimes c n s) = Nat.repeat saturatingHalf n (counterOf c s) := by
  simp [counterOf, bumpTimes]

theorem counterOf_bumpTimes_other {c d : Counter} (h : d ≠ c) (n : Nat) (s : State) :
    counterOf d (bumpTimes c n s) = counterOf d s := by
  have apart : (counterIndex c : Nat) ≠ counterIndex d := fun same => h (counterIndex_injective (Fin.ext same)).symm
  simp [counterOf, bumpTimes, Vector.getElem_set_ne, apart]

theorem isFlicker_eq (p : Port) : isFlicker p = (unlitWindow p && p.light == .light) := by
  unfold isFlicker unlitWindow windowLit
  cases p.enabled <;> cases p.losSeen <;> cases p.transitionSeen <;> simp

section Judgement
variable {params : Params} {los : Bool} {p : Port}

theorem judgePort_disabled (disabled : p.enabled = false) : judgePort params los p = p := by
  rw [judgePort, disabled]
  rfl

variable (enabled : p.enabled = true)
include enabled

theorem unlitWindow_eq : unlitWindow p = !windowLit p := by
  unfold unlitWindow windowLit
  rw [enabled]
  cases p.losSeen <;> simp

section Lit
variable (lit : windowLit p = true)
include lit

theorem judgePort_lit :
    judgePort params los p =
      { (if p.condition = .dark then { p with condition := .holding, restore := restoreTime params } else p) with
        light := .light, losSeen := los, transitionSeen := false } := by
  have light : judgedLight p.light true = .light := by cases p.light <;> rfl
  have still : isFlicker p = false := by rw [isFlicker, lit]; simp
  rw [judgePort, if_pos enabled, judgedCondition, lit, light, still, if_neg (fun h => by cases h.2)]
  by_cases dark : p.condition = .dark <;> simp [dark]

end Lit

section Unlit
variable (unlit : windowLit p = false)
include unlit

theorem judgePort_unlit_light (light : p.light = .light) :
    judgePort params los p =
      { p with light := .flicker, flickers := saturatingHalf p.flickers, losSeen := los, transitionSeen := false } := by
  have flickers : isFlicker p = true := by rw [isFlicker, unlit, enabled, light]; rfl
  rw [judgePort, if_pos enabled, judgedCondition, unlit, light, flickers, if_neg (fun h => by cases h.1),
    if_neg (fun h => by cases h.2)]
  rfl

theorem judgePort_unlit_flicker (flicker : p.light = .flicker) :
    judgePort params los p = { loseLight p with light := .noLight, losSeen := los, transitionSeen := false } := by
  have still : isFlicker p = false := by rw [isFlicker, flicker]; simp
  have flickers : (loseLight p).flickers = p.flickers := by unfold loseLight; split <;> rfl
  rw [judgePort, if_pos enabled, judgedCondition, unlit, flicker, still, if_pos ⟨rfl, rfl⟩, ← flickers]
  rfl

theorem judgePort_unlit_noLight (dark : p.light = .noLight) :
    judgePort params los p = { p with losSeen := los, transitionSeen := false } := by
  have still : isFlicker p = false := by rw [isFlicker, dark]; simp
  have after : judgedLight p.light false = p.light := by rw [dark]; rfl
  rw [judgePort, if_pos enabled, judgedCondition, unlit, after, still, if_neg (fun h => absurd (dark.symm.trans h.1) (by decide)),
    if_neg (fun h => by cases h.2)]
  rfl

end Unlit

end Judgement

/-- A judgement of a window takes the light of a port with traffic, or moves a port without it, or leaves what the
demands and the raises look at. -/
theorem judgePort_cases (params : Params) (los : Bool) (p : Port) :
    (windowDarkens p = true ∧ carriesTraffic p.condition = true ∧ (judgePort params los p).condition = .dark) ∨
    (windowDarkens p = false ∧ carriesTraffic p.condition = false ∧
      ((judgePort params los p).condition = .dark ∨ (judgePort params los p).condition = .holding)) ∨
    (windowDarkens p = false ∧ (judgePort params los p).condition = p.condition ∧
      ∀ r, effectiveWeight r (judgePort params los p) = effectiveWeight r p) := by
  cases enabled : p.enabled with
  | false =>
    have off : unlitWindow p = false := by rw [unlitWindow, enabled]; rfl
    rw [judgePort_disabled enabled, windowDarkens, off]
    exact .inr (.inr ⟨rfl, rfl, fun _ => rfl⟩)
  | true =>
    have window := unlitWindow_eq enabled
    cases lit : windowLit p with
    | true =>
      rw [judgePort_lit enabled lit, windowDarkens, window, lit]
      by_cases dark : p.condition = .dark
      · rw [if_pos dark, dark]
        exact .inr (.inl ⟨rfl, rfl, .inr rfl⟩)
      · rw [if_neg dark]
        exact .inr (.inr ⟨rfl, rfl, fun _ => rfl⟩)
    | false =>
      rw [windowDarkens, window, lit]
      cases light : p.light with
      | light =>
        rw [judgePort_unlit_light enabled lit light]
        exact .inr (.inr ⟨rfl, rfl, fun _ => rfl⟩)
      | noLight =>
        rw [judgePort_unlit_noLight enabled lit light]
        exact .inr (.inr ⟨rfl, rfl, fun _ => rfl⟩)
      | flicker =>
        rw [judgePort_unlit_flicker enabled lit light]
        cases traffic : carriesTraffic p.condition with
        | true =>
          rw [loseLight_dark (.inr traffic)]
          exact .inl ⟨rfl, rfl, rfl⟩
        | false =>
          by_cases holding : p.condition = .holding
          · rw [loseLight_dark (.inl holding)]
            exact .inr (.inl ⟨rfl, rfl, .inl rfl⟩)
          · rw [loseLight_same holding traffic]
            exact .inr (.inr ⟨rfl, rfl, fun _ => rfl⟩)

theorem portDemand_same {r : Nat} {old new : Port} (condition : new.condition = old.condition)
    (weight : effectiveWeight r new = effectiveWeight r old) : portDemand r old new = none := by
  unfold portDemand
  rw [condition, weight]
  cases old.condition <;> simp [carriesTraffic]

theorem portDemand_outside {r : Nat} {old new : Port} (before : carriesTraffic old.condition = false)
    (after : new.condition = .dark ∨ new.condition = .holding) : portDemand r old new = none := by
  rcases after with dark | holding
  · exact portDemand_dark before dark
  · unfold portDemand
    rw [holding]
    simp [carriesTraffic]

theorem portRaise_outside (i : PortNo) {old new : Port} (before : carriesTraffic old.condition = false)
    (after : new.condition = .dark ∨ new.condition = .holding) : portRaise i old new = none := by
  rcases after with dark | holding
  · exact portRaise_dark i before dark
  · simp [portRaise, holding]

theorem portDemand_judgePort (r : Nat) (params : Params) (los : Bool) (p : Port) :
    portDemand r p (judgePort params los p) = if windowDarkens p then some .alert else none := by
  rcases judgePort_cases params los p with ⟨darkens, before, after⟩ | ⟨still, before, after⟩ | ⟨still, same, weight⟩
  · rw [darkens, portDemand_darkens before after]
    rfl
  · rw [still, portDemand_outside before after]
    rfl
  · rw [still, portDemand_same same (weight r)]
    rfl

theorem portRaise_judgePort (i : PortNo) (params : Params) (los : Bool) (p : Port) :
    portRaise i p (judgePort params los p) = if windowDarkens p then some (raiseAbout .uplinkDark i.val) else none := by
  rcases judgePort_cases params los p with ⟨darkens, before, after⟩ | ⟨still, before, after⟩ | ⟨still, same, -⟩
  · rw [darkens, portRaise_darkens i before after]
    rfl
  · rw [still, portRaise_outside i before after]
    rfl
  · rw [still, portRaise_still i same]
    rfl

/-- The eight port monitors after the judgement of their windows. -/
def judgedPorts (s : State) : Vector Port 8 := Vector.ofFn fun p => judgePort s.params s.pins.los[p] s.ports[p]

@[simp] theorem judgedPorts_get (s : State) (p : PortNo) :
    (judgedPorts s)[p] = judgePort s.params s.pins.los[p] s.ports[p] := by
  simp [judgedPorts]

theorem portDemands_judgedPorts (s : State) :
    portDemands s (judgedPorts s) =
      (List.finRange 8).filterMap fun p => if windowDarkens s.ports[p] then some .alert else none :=
  List.filterMap_congr fun p _ => by rw [judgedPorts_get, portDemand_judgePort]

theorem portRaises_judgedPorts (s : State) :
    portRaises s (judgedPorts s) = (List.finRange 8).filterMap fun p =>
      if windowDarkens s.ports[p] then some (raiseAbout .uplinkDark p.val) else none :=
  List.filterMap_congr fun p _ => by rw [judgedPorts_get, portRaise_judgePort]

/-- The frame of a move from a state of which some counts, none of them the recomputes, have moved. -/
theorem MonitorFrame.of_counters {s u t : State} (frame : MonitorFrame u t)
    (same : u = { s with cadenceTimer := u.cadenceTimer, counters := u.counters })
    (recomputes : counterOf .recomputes u = counterOf .recomputes s) : MonitorFrame s t := by
  obtain ⟨pending, control, loader, params, notices, peers, map, lookup, bus, ⟨still, moved, follows⟩, others, own⟩ := frame
  have followed := SearchFollows.of_recomputes recomputes follows
  rw [same] at pending control loader params notices peers map lookup bus still moved followed others own
  exact ⟨pending, control, loader, params, notices, peers, map, lookup, bus, ⟨still, moved, followed⟩, others, own⟩

theorem windowLit_eq_false {p : Port} (unlit : p.losSeen = true ∨ p.transitionSeen = false) : windowLit p = false := by
  rw [windowLit, Bool.and_eq_false_iff]
  exact unlit.imp_left fun seen => by rw [seen]; rfl

/-- Settles O21. -/
theorem cadenceWindowJudgesPorts : Obligations.CadenceWindowJudgesPorts := by
  intro s runs
  obtain ⟨u, hu⟩ : ∃ u, u = bumpTimes .flickers ((List.finRange 8).countP fun p => isFlicker s.ports[p])
    { s with cadenceTimer := cadenceTime s.params } := ⟨_, rfl⟩
  have same : u = { s with cadenceTimer := u.cadenceTimer, counters := u.counters } := by rw [hu]; rfl
  have judged : ∀ p : PortNo, (movePorts (judgedPorts s) [] u).ports[p] = judgePort s.params s.pins.los[p] s.ports[p] :=
    fun p => by rw [movePorts_ports, judgedPorts_get]
  have bus : (movePorts (judgedPorts s) [] u).bus = (demands (portDemands s (judgedPorts s)) s).bus := by
    rw [movePorts_bus, show portDemands u (judgedPorts s) = portDemands s (judgedPorts s) by rw [hu]; rfl]
    exact demands_bus_congr _ (by rw [hu]; rfl) (by rw [hu]; rfl)
  refine ⟨movePorts (judgedPorts s) [] u, ?_, ?_, fun p disabled => ?_, fun p enabled unseen seen => ⟨fun dark => ?_, fun other => ?_⟩,
    fun p enabled unlit => ⟨fun light => ?_, fun flicker => ⟨fun loses => ?_, fun holds dark => ?_, fun traffic => ?_⟩, fun noLight => ?_⟩,
    fun still => ?_, ?_, ?_, ?_, ?_, ?_, ?_, ?_, ?_⟩
  · rw [exec, execCadenceWindowExpiry, if_pos runs, hu]
    rfl
  · rw [movePorts_cadenceTimer, hu]
    rfl
  · rw [judged, judgePort_disabled disabled]
  · rw [judged, judgePort_lit enabled (by rw [windowLit, unseen, seen]; rfl), if_pos dark]
    rfl
  · rw [judged, judgePort_lit enabled (by rw [windowLit, unseen, seen]; rfl), if_neg other]
  · rw [judged, judgePort_unlit_light enabled (windowLit_eq_false unlit) light]
  · rw [judged, judgePort_unlit_flicker enabled (windowLit_eq_false unlit) flicker, loseLight_dark loses]
    rfl
  · rw [judged, judgePort_unlit_flicker enabled (windowLit_eq_false unlit) flicker, loseLight_same holds dark]
  · have darkens : windowDarkens s.ports[p] = true := by
      rw [windowDarkens, unlitWindow_eq enabled, windowLit_eq_false unlit, flicker, traffic]
      rfl
    refine demands_all bus (d := .alert) (by decide) (fun d asked => ?_) (List.ne_nil_of_mem (a := .alert) ?_)
    · rw [portDemands_judgedPorts] at asked
      obtain ⟨q, -, here⟩ := List.mem_filterMap.mp asked
      split at here
      next => exact (Option.some.inj here).symm
      next => cases here
    · rw [portDemands_judgedPorts]
      exact List.mem_filterMap.mpr ⟨p, List.mem_finRange p, if_pos darkens⟩
  · rw [judged, judgePort_unlit_noLight enabled (windowLit_eq_false unlit) noLight]
  · refine demands_none bus ?_
    rw [portDemands_judgedPorts]
    exact List.filterMap_eq_nil_iff.mpr fun p _ => by rw [still p]; rfl
  · have graders := movePorts_gradersFollow (judgedPorts s) [] u
    rw [GradersFollow, same] at graders
    rwa [GradersFollow, same]
  · have raised := movePorts_raises (judgedPorts s) [] u
    rw [List.nil_append, show portRaises u (judgedPorts s) = portRaises s (judgedPorts s) by rw [hu]; rfl,
      portRaises_judgedPorts] at raised
    rw [same] at raised ⊢
    exact raised
  · rw [movePorts_countersBut (judgedPorts s) [] u .flickers (by decide), hu, counterOf_bumpTimes_same,
      repeat_saturatingHalf_toNat]
    simp only [isFlicker_eq]
    rfl
  · refine (movePorts_monitorFrame (judgedPorts s) [] u).of_counters same ?_
    rw [hu]
    exact counterOf_bumpTimes_other (by decide) _ _
  · intro c other
    rw [movePorts_countersBut (judgedPorts s) [] u c (mt (List.mem_append_left [Counter.flickers]) other), hu]
    exact counterOf_bumpTimes_other (fun h => other (by simp [h])) _ _
  · rw [movePorts_pins, same]
  · rw [movePorts_errorTimer, same]
  · rw [movePorts_spi, same]

end Sys2Proof.Machine
end

section
/-! The error grader's events (chapter 3): an error pulse and the expiry of the error window. -/

namespace Sys2Proof.Machine

/-! ### The error window -/

theorem windowRestores_eq (params : Params) (p : Port) (g : Grader) :
    recovers params p g = windowRestores params p g := by
  have spoiled : ∀ (mark : Bool) (action : Action), (!spoils mark action) = (!mark || action == .report) := by
    intro mark action
    cases mark <;> cases action <;> rfl
  simp only [recovers, isJudged, windowClean, spoiled, windowRestores, markOf, actionOf, List.all_cons, List.all_nil,
    Bool.and_true, Bool.and_assoc]

theorem windowClean_eq_true {params : Params} {g : Grader}
    (clean : ∀ k, markOf k g = true → actionOf k params = .report) : windowClean params g = true := by
  have unspoiled : ∀ k, spoils (markOf k g) (actionOf k params) = false := by
    intro k
    cases mark : markOf k g with
    | false => rfl
    | true => rw [clean k mark]; rfl
  have code := unspoiled .code
  have slip := unspoiled .slip
  have frame := unspoiled .frame
  simp only [markOf, actionOf] at code slip frame
  rw [windowClean, code, slip, frame]
  rfl

theorem windowClean_eq_false {params : Params} {g : Grader}
    (marked : ∃ k, markOf k g = true ∧ actionOf k params ≠ .report) : windowClean params g = false := by
  obtain ⟨k, mark, action⟩ := marked
  have spoiled : spoils (markOf k g) (actionOf k params) = true := by simp [spoils, mark, action]
  cases k <;> simp only [markOf, actionOf] at spoiled <;> simp [windowClean, spoiled]

theorem isJudged_eq_true {p : Port} (enabled : p.enabled = true) (degraded : p.condition = .degraded) :
    isJudged p = true := by
  rw [isJudged, enabled, degraded]
  rfl

theorem isJudged_eq_false {p : Port} (out : p.enabled = false ∨ p.condition ≠ .degraded) : isJudged p = false := by
  rw [isJudged, Bool.and_eq_false_iff]
  exact out.imp_right fun other => by rwa [beq_eq_false_iff_ne]

theorem recovers_of_clean {params : Params} {p : Port} {g : Grader} (judged : isJudged p = true)
    (clean : windowClean params g = true) :
    recovers params p g = decide (params.cleanWindows.toNat ≤ g.clean + 1) := by
  rw [recovers, judged, clean]
  rfl

/-- A port that recovers, as the error window ends (R46, R47). -/
def windowedPort (params : Params) (p : Port) (g : Grader) : Port :=
  if recovers params p g then settledPort .lit p else p

theorem recovers_degraded {params : Params} {p : Port} {g : Grader} (h : recovers params p g = true) :
    p.condition = .degraded := by
  simp only [recovers, isJudged, Bool.and_eq_true, beq_iff_eq] at h
  exact h.1.1.2

theorem portDemand_windowedPort (r : Nat) (params : Params) (p : Port) (g : Grader) :
    portDemand r p (windowedPort params p g) =
      if recovers params p g = true ∧ effectiveWeight r p ≠ p.weight then some .state else none := by
  unfold windowedPort
  cases h : recovers params p g with
  | false => 
    simp [portDemand_self]
  | true =>
    have degraded := recovers_degraded h
    have weight : effectiveWeight r (settledPort .lit p) = p.weight := rfl
    simp [portDemand, degraded, settledPort, carriesTraffic]
    rfl

theorem portRaise_windowedPort (i : PortNo) (params : Params) (p : Port) (g : Grader) :
    portRaise i p (windowedPort params p g) =
      if windowRestores params p g then some (raiseAbout .uplinkRestored i.val) else none := by
  rw [← windowRestores_eq]
  unfold windowedPort
  cases h : recovers params p g with
  | false => simp [portRaise_self]
  | true =>
    have degraded := recovers_degraded h
    rw [if_pos rfl, if_pos rfl]
    exact portRaise_lit i rfl (by rw [degraded]; decide) (by rw [degraded]; decide) (by rw [degraded]; decide)

theorem ofFn_get {α : Type} {n : Nat} (f : Fin n → α) (i : Fin n) : (Vector.ofFn f)[i] = f i := by simp

/-- The grader of a port after the end of an error window. -/
def graderWindowed (params : Params) (p : Port) (g : Grader) : Grader :=
  graderAfter (windowedPort params p g) (windowedGrader params p g)

theorem graderWindowed_cleared (params : Params) (p : Port) (g : Grader) (k : ErrorKind) :
    errorCount k (graderWindowed params p g) = 0 ∧ markOf k (graderWindowed params p g) = false := by
  unfold graderWindowed graderAfter
  split <;> cases k <;> exact ⟨rfl, rfl⟩

theorem graderWindowed_counts {params : Params} {p : Port} {g : Grader} (judged : isJudged p = true)
    (clean : windowClean params g = true) (no : recovers params p g = false) :
    (graderWindowed params p g).clean = g.clean + 1 := by
  have degraded : p.condition = .degraded := by
    rw [isJudged, Bool.and_eq_true, beq_iff_eq] at judged
    exact judged.2
  rw [graderWindowed, windowedPort, no, graderAfter, if_neg Bool.false_ne_true, if_pos degraded, windowedGrader,
    judgedClean, judged, clean, no]
  rfl

theorem graderWindowed_clean {params : Params} {p : Port} {g : Grader}
    (out : isJudged p = false ∨ windowClean params g = false ∨ recovers params p g = true) :
    (graderWindowed params p g).clean = 0 := by
  have none : judgedClean params p g = 0 := by
    rw [judgedClean]
    rcases out with h | h | h <;> simp [h]
  unfold graderWindowed graderAfter
  split
  · exact none
  · rfl

/-- The eight port monitors after the end of an error window. -/
def windowedPorts (s : State) : Vector Port 8 :=
  Vector.ofFn fun p => windowedPort s.params s.ports[p] s.graders[p]

@[simp] theorem windowedPorts_get (s : State) (p : PortNo) :
    (windowedPorts s)[p] = windowedPort s.params s.ports[p] s.graders[p] := by
  simp [windowedPorts]

theorem mem_portDemands_windowedPorts {s : State} {d : Demand} :
    d ∈ portDemands s (windowedPorts s) ↔ d = .state ∧ ∃ p : PortNo, recovers s.params s.ports[p] s.graders[p] = true ∧
      effectiveWeight s.params.rampSteps.toNat s.ports[p] ≠ s.ports[p].weight := by
  rw [portDemands, List.mem_filterMap]
  constructor
  · rintro ⟨p, -, asked⟩
    rw [windowedPorts_get, portDemand_windowedPort] at asked
    split at asked
    next recovered => exact ⟨(Option.some.inj asked).symm, p, recovered⟩
    next => cases asked
  · rintro ⟨rfl, p, recovered⟩
    exact ⟨p, List.mem_finRange p, by rw [windowedPorts_get, portDemand_windowedPort, if_pos recovered]⟩

theorem portRaises_windowedPorts (s : State) :
    portRaises s (windowedPorts s) = (List.finRange 8).filterMap fun p =>
      if windowRestores s.params s.ports[p] s.graders[p] then some (raiseAbout .uplinkRestored p.val) else none :=
  List.filterMap_congr fun p _ => by rw [windowedPorts_get, portRaise_windowedPort]

/-- Settles O27. -/
theorem errorWindowJudgesPorts : Obligations.ErrorWindowJudgesPorts := by
  intro s runs
  obtain ⟨u, hu⟩ : ∃ u, u = { s with
    errorTimer := errorTime s.params
    graders := Vector.ofFn fun p : PortNo => windowedGrader s.params s.ports[p] s.graders[p] } := ⟨_, rfl⟩
  obtain ⟨t, ht⟩ : ∃ t, t = movePorts (windowedPorts s) [] u := ⟨_, rfl⟩
  have ports : ∀ p : PortNo, t.ports[p] = windowedPort s.params s.ports[p] s.graders[p] := fun p => by
    rw [ht, movePorts_ports, windowedPorts_get]
  have graders : ∀ p : PortNo, t.graders[p] = graderWindowed s.params s.ports[p] s.graders[p] := fun p => by
    rw [ht, movePorts_graders, ofFn_get, windowedPorts_get, hu, ofFn_get]
    rfl
  have bus : t.bus = (demands (portDemands s (windowedPorts s)) s).bus := by
    rw [ht, movePorts_bus, show portDemands u (windowedPorts s) = portDemands s (windowedPorts s) by rw [hu]; rfl]
    exact demands_bus_congr _ (by rw [hu]) (by rw [hu])
  have stays : ∀ p : PortNo, recovers s.params s.ports[p] s.graders[p] = false → t.ports[p] = s.ports[p] := fun p no => by
    rw [ports, windowedPort, no]
    rfl
  have recovered : ∀ p : PortNo, s.ports[p].enabled = true → s.ports[p].condition = .degraded →
      (∀ k, markOf k s.graders[p] = true → actionOf k s.params = .report) →
      s.params.cleanWindows.toNat ≤ s.graders[p].clean + 1 → recovers s.params s.ports[p] s.graders[p] = true :=
    fun p enabled degraded clean due =>
      (recovers_of_clean (isJudged_eq_true enabled degraded) (windowClean_eq_true clean)).trans (decide_eq_true due)
  refine ⟨t, ?_, ?_, fun p k => ?_, fun p enabled degraded clean => ⟨fun early => ?_, fun due => ⟨?_, ?_, fun differs => ?_⟩⟩,
    fun p enabled degraded marked => ?_, fun p out => ?_, fun same => ?_, ?_, ?_, ?_, ?_, ?_, ?_⟩
  · rw [exec, execErrorWindowExpiry, if_pos runs, ht, hu]
    rfl
  · rw [ht, movePorts_errorTimer, hu]
    rfl
  · rw [graders]
    exact graderWindowed_cleared s.params s.ports[p] s.graders[p] k
  · have judged := isJudged_eq_true enabled degraded
    have no : recovers s.params s.ports[p] s.graders[p] = false :=
      (recovers_of_clean judged (windowClean_eq_true clean)).trans (decide_eq_false (Nat.not_le.mpr early))
    refine ⟨stays p no, ?_⟩
    rw [graders, graderWindowed_counts judged (windowClean_eq_true clean) no]
  · rw [ports, windowedPort, recovered p enabled degraded clean due]
    rfl
  · rw [graders, graderWindowed_clean (.inr (.inr (recovered p enabled degraded clean due)))]
  · refine demands_all bus (d := .state) (by decide) (fun d asked => (mem_portDemands_windowedPorts.mp asked).1)
      (List.ne_nil_of_mem (mem_portDemands_windowedPorts.mpr ⟨rfl, p, ?_, differs⟩))
    exact recovered p enabled degraded clean due
  · have spoiled := windowClean_eq_false marked
    refine ⟨stays p (by rw [recovers, spoiled, Bool.and_false, Bool.false_and]), ?_⟩
    rw [graders, graderWindowed_clean (.inr (.inl spoiled))]
  · have unjudged := isJudged_eq_false out
    refine ⟨stays p (by rw [recovers, unjudged, Bool.false_and, Bool.false_and]), ?_⟩
    rw [graders, graderWindowed_clean (.inl unjudged)]
  · refine demands_none bus (List.eq_nil_iff_forall_not_mem.mpr fun d asked => ?_)
    obtain ⟨-, p, recovered, differs⟩ := mem_portDemands_windowedPorts.mp asked
    exact differs (same p (by rwa [← windowRestores_eq]))
  · have raised := movePorts_raises (windowedPorts s) [] u
    rw [List.nil_append, show portRaises u (windowedPorts s) = portRaises s (windowedPorts s) by rw [hu]; rfl,
      portRaises_windowedPorts] at raised
    rw [ht]
    rw [hu] at raised ⊢
    exact raised
  · have frame := movePorts_monitorFrame (windowedPorts s) [] u
    rw [ht]
    rw [hu] at frame ⊢
    exact frame
  · have counters := movePorts_countersBut (windowedPorts s) [] u
    rw [ht]
    rw [hu] at counters ⊢
    exact counters
  · rw [ht, movePorts_pins, hu]
  · rw [ht, movePorts_cadenceTimer, hu]
  · rw [ht, movePorts_spi, hu]

/-! ### An error pulse -/

theorem graderAfter_keeps (port : Port) (g : Grader) (clean : Nat) (k : ErrorKind) :
    errorCount k (graderAfter port { g with clean := clean }) = errorCount k g ∧
      markOf k (graderAfter port { g with clean := clean }) = markOf k g := by
  unfold graderAfter
  split <;> cases k <;> exact ⟨rfl, rfl⟩

theorem graderAfter_clean (port : Port) (g : Grader) :
    (graderAfter port g).clean = if port.condition = .degraded then g.clean else 0 := by
  unfold graderAfter
  split <;> rfl

theorem crossPort_off (params : Params) (action : Action) {p : Port}
    (off : p.condition = .off ∨ p.condition = .dark ∨ p.condition = .drained) : crossPort params action p = p := by
  unfold crossPort
  rcases off with h | h | h <;> rw [h] <;> cases action <;> rfl

theorem crossPort_holding (params : Params) {action : Action} (acts : action ≠ .report) {p : Port}
    (holding : p.condition = .holding) :
    crossPort params action p = { p with restore := .running (params.restoreWait.toNat * 1000000) } := by
  unfold crossPort
  rw [holding]
  cases action with
  | report => exact absurd rfl acts
  | degrade | dark => rfl

theorem crossPort_degrades (params : Params) {p : Port} (serves : p.condition = .ramping ∨ p.condition = .lit) :
    crossPort params .degrade p = settledPort .degraded p := by
  unfold crossPort
  rcases serves with h | h <;> rw [h]

theorem crossPort_degraded (params : Params) {p : Port} (degraded : p.condition = .degraded) :
    crossPort params .degrade p = p := by
  unfold crossPort
  rw [degraded]

theorem crossPort_darkens (params : Params) {p : Port} (traffic : carriesTraffic p.condition = true) :
    crossPort params .dark p = settledPort .dark p := by
  unfold crossPort
  revert traffic
  cases p.condition <;> simp [carriesTraffic]

theorem portDemand_degrades {r : Nat} {p : Port} (serves : p.condition = .ramping ∨ p.condition = .lit) :
    portDemand r p (settledPort .degraded p) =
      if effectiveWeight r p ≠ effectiveWeight r (settledPort .degraded p) then some .state else none := by
  have traffic : carriesTraffic p.condition = true := by rcases serves with h | h <;> rw [h] <;> rfl
  rw [portDemand, if_neg (fun h => by cases h.2), if_neg (fun h => by cases h.2.2), if_neg (fun h => h.1 traffic),
    if_neg (fun h => by cases h.2)]
  exact if_congr (and_iff_right traffic |>.trans (and_iff_right rfl)) rfl rfl

theorem portRaise_degrades (i : PortNo) {p : Port} (serves : p.condition = .ramping ∨ p.condition = .lit) :
    portRaise i p (settledPort .degraded p) = some (raiseAbout .uplinkDegraded i.val) := by
  unfold portRaise
  rcases serves with h | h <;> rw [h] <;> simp [settledPort]

section Crossing
variable {p : PortNo} {kind : ErrorKind} {s : State} (on : receiveOn s.control.station = true)
include on

theorem exec_errorPulse_counts
    (still : (errorCount kind s.graders[p]).toNat + 1 ≠ s.params.threshold.toNat ∨ s.ports[p].enabled = false) :
    exec (.errorPulse p kind) s =
      .next { s with graders := s.graders.set p (countPulse kind s.params.threshold s.graders[p]) } := by
  rw [exec, execErrorPulse, if_pos on, if_neg]
  rintro ⟨crossed, enabled⟩
  rw [crosses_eq_decide, decide_eq_true_eq] at crossed
  exact still.elim (fun h => h crossed) fun h => by rw [enabled] at h; cases h

/-- The state that a crossing hands to the port monitors. -/
def crossedState (p : PortNo) (kind : ErrorKind) (s : State) : State :=
  { s with
    graders := s.graders.set p
      { countPulse kind s.params.threshold s.graders[p] with
        clean := crossedClean (actionOf kind s.params) s.graders[p].clean } }

theorem exec_errorPulse_crosses (crossed : (errorCount kind s.graders[p]).toNat + 1 = s.params.threshold.toNat)
    (enabled : s.ports[p].enabled = true) :
    exec (.errorPulse p kind) s =
      .next (movePorts (s.ports.set p (crossPort s.params (actionOf kind s.params) s.ports[p]))
        [raiseAbout .errorReport p.val] (crossedState p kind s)) := by
  rw [exec, execErrorPulse, if_pos on, if_pos ⟨by rw [crosses_eq_decide, decide_eq_true crossed], enabled⟩]
  rfl

end Crossing

theorem grader_set_same (graders : Vector Grader 8) (p : PortNo) (g : Grader) : (graders.set p g)[p] = g := by simp

theorem grader_set_other (graders : Vector Grader 8) {p q : PortNo} (other : q ≠ p) (g : Grader) :
    (graders.set p g)[q] = graders[q] := by
  have apart : (p : Nat) ≠ q := fun same => other (Fin.ext same.symm)
  simp [Vector.getElem_set_ne, apart]

/-- What a pulse does to the counter and the mark of its kind, and to the others (R37, R38, R40). -/
def PulseCounted (kind : ErrorKind) (threshold : Byte) (before after : Grader) : Prop :=
  (errorCount kind after).toNat = min 255 ((errorCount kind before).toNat + 1) ∧
  (∀ k, k ≠ kind → errorCount k after = errorCount k before ∧ markOf k after = markOf k before) ∧
  markOf kind after = (markOf kind before || decide ((errorCount kind before).toNat + 1 = threshold.toNat))

theorem countPulse_counted (kind : ErrorKind) (threshold : Byte) (g : Grader) :
    PulseCounted kind threshold g (countPulse kind threshold g) := by
  refine ⟨?_, fun k other => countPulse_keeps_other other threshold g, ?_⟩
  · rw [errorCount_countPulse_same, saturatingByte_toNat, Nat.min_comm]
  · rw [markOf_countPulse_same, crosses_eq_decide]

theorem PulseCounted.graderAfter {kind : ErrorKind} {threshold : Byte} {before after : Grader}
    (counted : PulseCounted kind threshold before after) (port : Port) (clean : Nat) :
    PulseCounted kind threshold before (graderAfter port { after with clean := clean }) := by
  obtain ⟨count, others, mark⟩ := counted
  have keeps := graderAfter_keeps port after clean
  refine ⟨?_, fun k other => ?_, ?_⟩
  · rwa [(keeps kind).1]
  · rw [(keeps k).1, (keeps k).2]
    exact others k other
  · rwa [(keeps kind).2]

/-- What a crossing leaves of a port and its clean count, by the table of R41 and R42 to R44; `bus` says what it demands
and `raised` what it raises. -/
theorem crossed_leaves {p : PortNo} {kind : ErrorKind} {s t : State} {action : Action}
    (act : action = actionOf kind s.params)
    (ht : t = movePorts (s.ports.set p (crossPort s.params action s.ports[p])) [raiseAbout .errorReport p.val]
      (crossedState p kind s)) :
    t.ports[p] = crossPort s.params action s.ports[p] ∧
    t.graders[p].clean = (if (crossPort s.params action s.ports[p]).condition = .degraded then
      crossedClean action s.graders[p].clean else 0) ∧
    t.bus = (demands (portDemand s.params.rampSteps.toNat s.ports[p]
      (crossPort s.params action s.ports[p])).toList s).bus ∧
    Raises ([raiseAbout .errorReport p.val] ++
      (portRaise p s.ports[p] (crossPort s.params action s.ports[p])).toList) s t := by
  subst act ht
  refine ⟨?_, ?_, ?_, ?_⟩
  · rw [movePorts_ports, port_set_same]
  · rw [movePorts_graders, ofFn_get, port_set_same, graderAfter_clean, crossedState, grader_set_same]
  · have bus := movePorts_set_bus p (crossPort s.params (actionOf kind s.params) s.ports[p]) (crossedState p kind s)
      [raiseAbout .errorReport p.val]
    exact bus.trans (demands_bus_congr _ rfl rfl)
  · exact movePorts_set_raises p (crossPort s.params (actionOf kind s.params) s.ports[p]) (crossedState p kind s)
      [raiseAbout .errorReport p.val]

theorem demands_option {s t : State} {o : Option Demand} {d : Demand} (bus : t.bus = (demands o.toList s).bus)
    (notLeave : d ≠ .leave) (h : o = some d) : Demands (demandKind d) (d == .alert) s t := by
  subst h
  exact demands_all bus notLeave (by simp) (by simp)

/-- A crossing that raises nothing beside ERROR REPORT (R32, R41). -/
theorem portRaise_crossPort (i : PortNo) {params : Params} {action : Action} {p : Port}
    (alone : action = .report ∨ p.condition = .holding ∨ (action = .degrade ∧ p.condition = .degraded) ∨
      p.condition = .off ∨ p.condition = .dark ∨ p.condition = .drained) :
    portRaise i p (crossPort params action p) = none := by
  refine portRaise_still i ?_
  rcases alone with report | holding | ⟨degrade, degraded⟩ | off
  · rw [report]
    rfl
  · by_cases report : action = .report
    · rw [report]
      rfl
    · rw [crossPort_holding params report holding]
  · rw [degrade, crossPort_degraded params degraded]
  · rw [crossPort_off params action off]

/-- Settles O26. -/
theorem errorPulseCountsAndCrosses : Obligations.ErrorPulseCountsAndCrosses := by
  refine ⟨fun p kind s off => by rw [exec, execErrorPulse, off]; rfl, fun p kind s on => ?_⟩
  by_cases crosses : (errorCount kind s.graders[p]).toNat + 1 = s.params.threshold.toNat ∧ s.ports[p].enabled = true
  · obtain ⟨crossed, enabled⟩ := crosses
    obtain ⟨action, act⟩ : ∃ action, action = actionOf kind s.params := ⟨_, rfl⟩
    obtain ⟨t, ht⟩ : ∃ t, t = movePorts (s.ports.set p (crossPort s.params action s.ports[p]))
      [raiseAbout .errorReport p.val] (crossedState p kind s) := ⟨_, rfl⟩
    obtain ⟨port, clean, bus, raised⟩ := crossed_leaves act ht
    have counted : PulseCounted kind s.params.threshold s.graders[p] t.graders[p] := by
      rw [ht, movePorts_graders, ofFn_get, crossedState, grader_set_same]
      exact (countPulse_counted kind s.params.threshold s.graders[p]).graderAfter _ _
    obtain ⟨count, others, mark⟩ := counted
    have taken : exec (.errorPulse p kind) s = .next t := by rw [exec_errorPulse_crosses on crossed enabled, ht, act]
    have frame : MonitorFrame s t := by rw [ht]; exact movePorts_monitorFrame _ _ (crossedState p kind s)
    have counters : CountersBut [.recomputes] s t := by rw [ht]; exact movePorts_countersBut _ _ (crossedState p kind s)
    refine ⟨t, taken, count, others, mark, fun still => ?_, fun _ _ => ⟨fun report => ⟨?_, ?_, fun degraded => ?_⟩,
      fun acts holding => ⟨?_, ?_⟩, fun degrade serves => ⟨?_, ?_, ?_, fun differs => ?_, fun same => ?_⟩,
      fun degrade degraded => ⟨?_, ?_, ?_⟩, fun dark traffic => ⟨?_, ?_, ?_, ?_⟩, fun alone => ?_, fun off => ⟨?_, ?_⟩,
      fun out => ?_, fun q other => ⟨?_, ?_⟩, frame, counters, by rw [ht, movePorts_pins]; rfl,
      by rw [ht, movePorts_cadenceTimer]; rfl, by rw [ht, movePorts_errorTimer]; rfl, by rw [ht, movePorts_spi]; rfl⟩⟩
    · exact (still.elim (fun h => h crossed) fun h => by rw [enabled] at h; cases h).elim
    · rw [ht, act, report, movePorts_ports]
      exact Vector.set_getElem_self p.isLt
    · refine demands_none bus ?_
      rw [act, report]
      exact congrArg Option.toList (portDemand_self _ s.ports[p])
    · rw [clean, act, report]
      exact if_pos degraded
    · rw [port, act, crossPort_holding s.params acts holding]
    · refine demands_none bus ?_
      rw [act, crossPort_holding s.params acts holding]
      exact congrArg Option.toList (portDemand_still (by rw [holding]; rfl) rfl)
    · rw [port, act, degrade, crossPort_degrades s.params serves]
      rfl
    · rw [clean, act, degrade]
      exact ite_self 0
    · rwa [act, degrade, crossPort_degrades s.params serves, portRaise_degrades p serves] at raised
    · rw [port, act, degrade, crossPort_degrades s.params serves] at differs
      refine demands_option (d := .state) bus (by decide) ?_
      rw [act, degrade, crossPort_degrades s.params serves, portDemand_degrades serves, if_pos (Ne.symm differs)]
    · rw [port, act, degrade, crossPort_degrades s.params serves] at same
      refine demands_none bus ?_
      rw [act, degrade, crossPort_degrades s.params serves, portDemand_degrades serves, if_neg (not_not.mpr same.symm)]
      rfl
    · rw [port, act, degrade, crossPort_degraded s.params degraded]
    · rw [clean, act, degrade]
      exact ite_self 0
    · refine demands_none bus ?_
      rw [act, degrade, crossPort_degraded s.params degraded, portDemand_self]
      rfl
    · rw [port, act, dark, crossPort_darkens s.params traffic]
      rfl
    · rw [clean, act, dark]
      exact ite_self 0
    · refine demands_option (d := .alert) bus (by decide) ?_
      rw [act, dark, crossPort_darkens s.params traffic, portDemand_darkens traffic rfl]
    · rwa [act, dark, crossPort_darkens s.params traffic, portRaise_darkens p traffic rfl] at raised
    · rwa [portRaise_crossPort p (act ▸ alone)] at raised
    · rw [port, crossPort_off s.params action off]
    · refine demands_none bus ?_
      rw [crossPort_off s.params action off, portDemand_self]
      rfl
    · rw [clean, ← port, if_neg out]
    · rw [ht, movePorts_ports, port_set_other s.ports other]
    · rw [ht, movePorts_graders, ofFn_get, port_set_other s.ports other, graderAfter, crossedState,
        grader_set_other s.graders other]
  · have still := not_and_or.mp crosses
    have counted := countPulse_counted kind s.params.threshold s.graders[p]
    rw [← grader_set_same s.graders p (countPulse kind s.params.threshold s.graders[p])] at counted
    obtain ⟨count, others, mark⟩ := counted
    refine ⟨_, exec_errorPulse_counts on (still.imp_right fun h => by simpa using h), count, others, mark,
      fun _ => ⟨rfl, ?_, fun q other => grader_set_other s.graders other _⟩, fun crossed enabled => absurd ⟨crossed, enabled⟩ crosses⟩
    rw [grader_set_same]
    cases kind <;> rfl

end Sys2Proof.Machine
end

section
/-! What every event at the peer table leaves (chapter 6), and the notices that bring one (chapter 5): JOIN, STATE,
ALERT, SOLICIT and LEAVE. -/

namespace Sys2Proof.Machine

/-! ### A move of one peer entry -/

theorem peer_set_same (peers : Vector Peer 16) (i : StationNo) (p : Peer) : (peers.set i p)[i] = p := by simp

theorem peer_set_other (peers : Vector Peer 16) {i j : StationNo} (other : j ≠ i) (p : Peer) :
    (peers.set i p)[j] = peers[j] := by
  have apart : (i : Nat) ≠ j := fun same => other (Fin.ext same.symm)
  simp [Vector.getElem_set_ne, apart]

section Move
variable (i : StationNo) (p : Peer) (ds : List Demand) (rs : List Raise) (s : State)

theorem movePeer_peerFrame : PeerFrame i s (movePeer i p ds rs s) := by
  refine ⟨by simp, by simp, by simp, by simp, by simp, by simp, by simp, by simp, by simp, by simp, by simp, by simp,
    fun j other => ⟨?_, ?_⟩⟩
  · rw [movePeer_peers, peer_set_other s.peers other]
  · rw [movePeer_rows, row_set_ne other]

theorem movePeer_tableFollows : TableFollows s (movePeer i p ds rs s) :=
  tableFollows_search i _ (by rw [raiseEvents_table, demands_table]; rfl) (by simp) (by simp [counterOf])

theorem movePeer_countersBut : CountersBut [.recomputes] s (movePeer i p ds rs s) := fun c other =>
  (search_countersBut _ c other).trans (by simp [counterOf, changePeer])

theorem movePeer_raises :
    Raises (peerRaises i s.peers[i] p ++ rs) s (movePeer i p ds rs s) := by
  have raised := raiseEvents_raises (peerRaises i s.peers[i] p ++ rs) (demands ds (changePeer i p s))
  unfold Raises at raised ⊢
  rw [demands_events] at raised
  rwa [movePeer, search_events]

theorem movePeer_row : (movePeer i p ds rs s).table.rows[i] = peerRow p s.table.rows[i] := by
  rw [movePeer_rows, row_set_same]

theorem movePeer_peer : (movePeer i p ds rs s).peers[i] = p := by rw [movePeer_peers, peer_set_same]

end Move

/-! ### The eight candidate entries that follow a peer entry (R105) -/

theorem peerRow_unheard {p : Peer} (h : p.state ≠ .present) (row : Vector Candidate 8) (q : PortNo) :
    (peerRow p row)[q] = { row[q] with condition := none, weight := 0 } := by
  unfold peerRow
  split
  next present _ => exact absurd present h
  next => simp

theorem peerRow_holds {p : Peer} {facts : Vector Fact 8} (present : p.state = .present) (report : p.report = some facts)
    (row : Vector Candidate 8) (q : PortNo) :
    (peerRow p row)[q] =
      { row[q] with condition := some facts[q].condition, group := facts[q].group, weight := facts[q].weight } := by
  unfold peerRow
  rw [present, report]
  simp

/-! ### Demands from a state whose queue and notice in flight are known -/

theorem leaveStands_congr {b b' : Bus} (queue : b'.queue = b.queue) (flight : b'.inFlight = b.inFlight) :
    leaveStands b' = leaveStands b := by
  rw [leaveStands, leaveStands, queue, flight]

theorem Demands.congr {kind : EntryKind} {urgent : Bool} {s u t : State} (made : Demands kind urgent u t)
    (control : u.control = s.control) (queue : u.bus.queue = s.bus.queue) (flight : u.bus.inFlight = s.bus.inFlight) :
    Demands kind urgent s t := by
  have stands := leaveStands_congr queue flight
  unfold Demands DemandsNothing at made ⊢
  rwa [control, queue, flight, stands] at made

theorem DemandsNothing.congr {s u t : State} (made : DemandsNothing u t) (queue : u.bus.queue = s.bus.queue)
    (flight : u.bus.inFlight = s.bus.inFlight) : DemandsNothing s t := by
  unfold DemandsNothing at made ⊢
  rwa [queue, flight] at made

/-! ### A frame that is handed on (R58, R60, R78) -/

@[simp] theorem spendReceiver_queue (times : List (Option Int)) (s : State) :
    (spendReceiver times s).bus.queue = s.bus.queue := by
  rw [(spendReceiver_ends times s).2]
  show (timeCells times s.bus).queue = _
  rw [timeCells_frame]

@[simp] theorem spendReceiver_inFlight (times : List (Option Int)) (s : State) :
    (spendReceiver times s).bus.inFlight = s.bus.inFlight := by
  rw [(spendReceiver_ends times s).2]
  show (timeCells times s.bus).inFlight = _
  rw [timeCells_frame]

/-- A state whose bus is that of the spent receiver but for what demands change. -/
theorem frameEnds_of_demands {times : List (Option Int)} {s t : State}
    (demanded : BusDemandsOnly (spendReceiver times s) t) : FrameEnds times s t := by
  obtain ⟨timed, ends⟩ := spendReceiver_ends times s
  unfold BusDemandsOnly at demanded
  refine ⟨?_, ?_⟩
  · rw [demanded]
    exact timed
  · rw [demanded, ends]

theorem frameEnds_of_bus {times : List (Option Int)} {s t : State} (bus : t.bus = (spendReceiver times s).bus) :
    FrameEnds times s t := frameEnds_of_demands (by rw [BusDemandsOnly, bus])

theorem demandsNothing_of_bus {times : List (Option Int)} {s t : State} (bus : t.bus = (spendReceiver times s).bus) :
    DemandsNothing s t := by
  rw [DemandsNothing, bus]
  exact ⟨spendReceiver_queue times s, spendReceiver_inFlight times s⟩

theorem crcAgrees_iff (n : Notice) :
    crcAgrees n = true ↔ n.crc = crc16 (headerByte n.kind n.sender :: n.sequence :: n.body) := by
  rw [crcAgrees, beq_iff_eq, eq_comm]
  rfl

section Frame
variable {n : Notice} {times : List (Option Int)} {s : State}

theorem frameReceived_outside (on : receiveOn s.control.station = true) (flight : s.bus.inFlight = none) :
    frameReceived n times s = checkNotice n (spendReceiver times s) := by
  rw [frameReceived, if_pos on, flight]

theorem senderSeated_eq_true (seated : s.params.presenceInUse = true → s.pins.presence[n.sender] = true) :
    senderSeated s n.sender = true := by
  rw [senderSeated]
  cases inUse : s.params.presenceInUse with
  | false => rfl
  | true => exact seated inUse

theorem frameReceived_seated (arrives : Arrives n s) :
    frameReceived n times s =
      if sequenceAccepted n s.peers[n.sender] = false then staleNotice n (spendReceiver times s)
      else acceptNotice n (spendReceiver times s) := by
  obtain ⟨on, flight, crc, other, seated⟩ := arrives
  have agrees := (crcAgrees_iff n).mpr crc
  rw [frameReceived_outside on flight, checkNotice, if_neg (by rw [agrees]; decide),
    if_neg (show ¬ n.sender = (spendReceiver times s).control.number from other), if_neg]
  · rfl
  · rw [show senderSeated (spendReceiver times s) n.sender = senderSeated s n.sender from rfl,
      senderSeated_eq_true seated]
    decide

theorem frameReceived_accepted (arrives : Arrives n s) (accepted : sequenceAccepted n s.peers[n.sender] = true) :
    frameReceived n times s = acceptNotice n (spendReceiver times s) := by
  rw [frameReceived_seated arrives, if_neg (by rw [accepted]; decide)]

end Frame

theorem byte_sub_toNat (a b : Byte) : (a - b).toNat = (256 + a.toNat - b.toNat) % 256 := by
  have := b.isLt
  rw [BitVec.toNat_sub]
  congr 1
  omega

theorem follows_iff (a b : Byte) :
    follows a b = true ↔ 1 ≤ (256 + a.toNat - b.toNat) % 256 ∧ (256 + a.toNat - b.toNat) % 256 ≤ 127 := by
  rw [follows, Bool.and_eq_true, decide_eq_true_eq, decide_eq_true_eq, byte_sub_toNat]

theorem sequenceAccepted_of_accepted {n : Notice} {s : State} (accepted : Accepted n s) :
    sequenceAccepted n s.peers[n.sender] = true := by
  rw [sequenceAccepted, Bool.or_eq_true]
  rcases accepted with join | absent | silent | ⟨present | mismatch, within⟩
  · exact .inl (by simp [join])
  · exact .inr (by rw [absent])
  · exact .inr (by rw [silent])
  · exact .inr (by rw [present]; exact (follows_iff _ _).mpr within)
  · exact .inr (by rw [mismatch]; exact (follows_iff _ _).mpr within)

/-- What acceptance counts and keeps, where the entry moves (R58, R82). -/
theorem accepted_leaves {n : Notice} {times : List (Option Int)} {s t : State} {p : Peer} {ds : List Demand}
    {rs : List Raise} (sequence : p.lastSequence = n.sequence)
    (accepted : p.accepted = saturatingHalf s.peers[n.sender].accepted) (stale : p.stale = s.peers[n.sender].stale)
    (ht : t = bump (receivedCounter n.kind) (movePeer n.sender p ds rs (spendReceiver times s))) :
    Counted n times s t ∧ PeerFrame n.sender s t ∧ TableFollows s t := by
  have notRecomputes : Counter.recomputes ≠ receivedCounter n.kind := by cases n.kind <;> decide
  have peer : t.peers[n.sender] = p := by rw [ht]; exact movePeer_peer _ _ _ _ _
  have moved := movePeer_countersBut n.sender p ds rs (spendReceiver times s)
  refine ⟨⟨by rw [peer, sequence], by rw [peer, accepted], by rw [peer, stale], ?_, ?_, ?_, ?_⟩, ?_, ?_⟩
  · rw [ht, counterOf_bump_same, moved (receivedCounter n.kind) (by simpa using notRecomputes.symm)]
    rfl
  · rw [ht]
    intro c other
    simp only [List.mem_cons, List.not_mem_nil, or_false, not_or] at other
    rw [counterOf_bump_other other.1, moved c (by simpa using other.2)]
    rfl
  · rw [ht, bump_pins, movePeer_pins]
    rfl
  · refine frameEnds_of_demands ?_
    have demanded := demands_bus ds (spendReceiver times s)
    unfold BusDemandsOnly at demanded ⊢
    rw [ht, bump_bus, movePeer_bus]
    exact demanded
  · rw [ht]
    exact movePeer_peerFrame n.sender p ds rs (spendReceiver times s)
  · obtain ⟨still, differs, follows⟩ := movePeer_tableFollows n.sender p ds rs (spendReceiver times s)
    rw [ht]
    refine ⟨still, differs, ?_⟩
    unfold SearchFollows at follows ⊢
    rw [counterOf_bump_other notRecomputes]
    exact follows

end Sys2Proof.Machine
end

section
/-! The facts of a notice's body (R83, R177), and the accepted notices (R84 to R90, R94 to R97). -/

namespace Sys2Proof.Machine

/-! ### The facts of a body -/

theorem toList_getD {n : Nat} (v : Vector Byte n) {i : Nat} (h : i < n) : v.toList.getD i 0 = v[i] := by
  simp [List.getD_eq_getElem?_getD, h]

theorem conditionOfCode_conditionCode (c : Condition) : conditionOfCode (conditionCode c) = some c := by
  cases c <;> rfl

theorem conditionOfCode_none {code : BitVec 4} (h : 7 ≤ code.toNat) : conditionOfCode code = none := by
  revert code
  decide

theorem groupInField_val (field : Half) (p : PortNo) : (groupInField field p).val = field.toNat / 4 ^ (7 - p.val) % 4 := by
  have power : 2 ^ (14 - 2 * p.val) = 4 ^ (7 - p.val) := by
    rw [show (4 : Nat) = 2 ^ 2 by rfl, ← Nat.pow_mul]
    congr 1
    omega
  show field.toNat >>> (14 - 2 * p.val) % 4 = _
  rw [Nat.shiftRight_eq_div_pow, power]

section ReadFact
variable (byte : Byte) (group : Group)

theorem high_nibble_toNat : (byte.extractLsb' 4 4).toNat = byte.toNat / 16 := by
  have := byte.isLt
  simp only [BitVec.extractLsb'_toNat, Nat.shiftRight_eq_div_pow]
  omega

theorem low_nibble_toNat : (byte.extractLsb' 0 4).toNat = byte.toNat % 16 := by simp

theorem readFact_group : (readFact byte group).group = group := by
  unfold readFact
  split
  · rfl
  · split_ifs <;> rfl

theorem readFact_unknown (h : 7 ≤ byte.toNat / 16) :
    (readFact byte group).condition = .dark ∧ (readFact byte group).weight = 0 := by
  rw [readFact, conditionOfCode_none (by rwa [high_nibble_toNat])]
  exact ⟨rfl, rfl⟩

variable {byte} {c : Condition} (code : byte.toNat / 16 = (conditionCode c).toNat)
include code

theorem readFact_known :
    readFact byte group =
      if carriesTraffic c then
        if byte.extractLsb' 0 4 = 0#4 then { condition := .dark, weight := 0, group := group }
        else { condition := c, weight := byte.extractLsb' 0 4, group := group }
      else { condition := c, weight := 0, group := group } := by
  have nibble : byte.extractLsb' 4 4 = conditionCode c := BitVec.eq_of_toNat_eq (by rw [high_nibble_toNat, code])
  rw [readFact, nibble, conditionOfCode_conditionCode]

theorem readFact_candidate (traffic : carriesTraffic c = true) (weight : 1 ≤ byte.toNat % 16) :
    (readFact byte group).condition = c ∧ (readFact byte group).weight.toNat = byte.toNat % 16 := by
  have some : byte.extractLsb' 0 4 ≠ 0#4 := fun zero => by
    have := congrArg BitVec.toNat zero
    rw [low_nibble_toNat] at this
    have : byte.toNat % 16 = 0 := this
    omega
  rw [readFact_known group code, if_pos traffic, if_neg some]
  exact ⟨rfl, low_nibble_toNat byte⟩

theorem readFact_weightless (traffic : carriesTraffic c = true) (weight : byte.toNat % 16 = 0) :
    (readFact byte group).condition = .dark ∧ (readFact byte group).weight = 0 := by
  have zero : byte.extractLsb' 0 4 = 0#4 := BitVec.eq_of_toNat_eq (by rw [low_nibble_toNat, weight]; rfl)
  rw [readFact_known group code, if_pos traffic, if_pos zero]
  exact ⟨rfl, rfl⟩

theorem readFact_other (dark : carriesTraffic c = false) :
    (readFact byte group).condition = c ∧ (readFact byte group).weight = 0 := by
  rw [readFact_known group code, dark]
  exact ⟨rfl, rfl⟩

end ReadFact

theorem readFacts_readAs (body : List Byte) (reportAt groupsAt : Nat) :
    ReadAs (fun p => body.getD (reportAt + p.val) 0)
      (256 * (body.getD groupsAt 0).toNat + (body.getD (groupsAt + 1) 0).toNat) (readFacts body reportAt groupsAt) := by
  intro p
  have fact : (readFacts body reportAt groupsAt)[p] = readFact (body.getD (reportAt + p.val) 0)
      (groupInField (ofBytes (body.getD groupsAt 0) (body.getD (groupsAt + 1) 0)) p) := ofFn_get _ p
  rw [fact]
  refine ⟨by rw [readFact_group, groupInField_val, ofBytes_toNat], fun c code => ⟨?_, ?_, ?_⟩, readFact_unknown _ _⟩
  · exact readFact_candidate _ code
  · exact readFact_weightless _ code
  · exact readFact_other _ code

/-! ### JOIN -/

theorem joinEqual_iff {n : Notice} {body : Vector Byte 17} (fields : n.body = body.toList) (params : Params) :
    joinEqual n params = true ↔ body[0].extractLsb' 0 2 = params.bucketCode ∧ ofBytes body[1] body[2] = params.seed ∧
      body[3] = params.announce := by
  simp only [joinEqual, fields, joinBucketCode, joinSeed, joinAnnounce, bodyHalf, Bool.and_eq_true, beq_iff_eq,
    toList_getD body (show 0 < 17 by decide), toList_getD body (show 1 < 17 by decide),
    toList_getD body (show 1 + 1 < 17 by decide), toList_getD body (show 3 < 17 by decide), and_assoc]

theorem acceptNotice_join {n : Notice} (kind : n.kind = .join) (s : State) :
    acceptNotice n s = bump .receivedJoin (joinAccepted n s) := by
  rw [acceptNotice, kind]
  rfl

/-- The demands of an entry's move, seen from before its frame ended. -/
theorem moved_demands {i : StationNo} {p : Peer} {ds : List Demand} {rs : List Raise} {times : List (Option Int)}
    {s t : State} (c : Counter) (ht : t = bump c (movePeer i p ds rs (spendReceiver times s))) {d : Demand}
    (notLeave : d ≠ .leave) (asked : ds = [d]) : Demands (demandKind d) (d == .alert) s t := by
  have bus : t.bus = (demands ds (spendReceiver times s)).bus := by rw [ht, bump_bus, movePeer_bus]
  exact (demands_all bus notLeave (by simp [asked]) (by simp [asked])).congr rfl (by simp) (by simp)

theorem moved_demandsNothing {i : StationNo} {p : Peer} {ds : List Demand} {rs : List Raise} {times : List (Option Int)}
    {s t : State} (c : Counter) (ht : t = bump c (movePeer i p ds rs (spendReceiver times s))) (asked : ds = []) :
    DemandsNothing s t := by
  have bus : t.bus = (demands ds (spendReceiver times s)).bus := by rw [ht, bump_bus, movePeer_bus]
  exact (demands_none bus asked).congr (by simp) (by simp)

/-- What an entry's move leaves in the tables and the event unit, seen from before its frame ended. -/
theorem moved_leaves {i : StationNo} {p : Peer} {ds : List Demand} {rs : List Raise} {times : List (Option Int)}
    {s t : State} (c : Counter) (ht : t = bump c (movePeer i p ds rs (spendReceiver times s))) :
    t.peers[i] = p ∧ t.table.rows[i] = peerRow p s.table.rows[i] ∧ Raises (peerRaises i s.peers[i] p ++ rs) s t := by
  subst ht
  exact ⟨movePeer_peer _ _ _ _ _, movePeer_row _ _ _ _ _, movePeer_raises i p ds rs (spendReceiver times s)⟩

theorem peerRaises_mismatch (i : StationNo) {old new : Peer} (mismatch : new.state = .mismatch) :
    peerRaises i old new = if old.state = .mismatch then [] else [raiseAbout .peerMismatch i.val] := by
  simp [peerRaises, mismatch]

theorem peerRaises_present (i : StationNo) {old new : Peer} (present : new.state = .present) :
    peerRaises i old new = [] := by
  simp [peerRaises, present]

/-- The row of a station whose entry moves to another state than PRESENT. -/
theorem rowUnheard_of_row {i : StationNo} {p : Peer} {s t : State} (row : t.table.rows[i] = peerRow p s.table.rows[i])
    (h : p.state ≠ .present) : RowUnheard i s t := fun q => by
  rw [row, peerRow_unheard h]

theorem rowHolds_of_row {i : StationNo} {p : Peer} {facts : Vector Fact 8} {s t : State}
    (row : t.table.rows[i] = peerRow p s.table.rows[i]) (present : p.state = .present) (report : p.report = some facts) :
    RowHolds i facts s t := fun q => by
  rw [row, peerRow_holds present report]

theorem Raises.none {s t : State} {rs : List Raise} (raised : Raises rs s t) (none : rs = []) : t.events = s.events :=
  raised.1 none

/-- The body of a JOIN as its bytes give it (R177). -/
theorem join_body (body : Vector Byte 17) :
    bodyChecksum .join body.toList = body[4] ∧ bodyDigest .join body.toList = ofBytes body[15] body[16] ∧
    ReadAs (fun p => body[5 + p.val]) (256 * body[13].toNat + body[14].toNat) (bodyFacts .join body.toList) := by
  have facts := readFacts_readAs body.toList 5 13
  rw [toList_getD body (show 13 < 17 by decide), toList_getD body (show 13 + 1 < 17 by decide)] at facts
  refine ⟨toList_getD body (show 4 < 17 by decide), ?_, ?_⟩
  · show ofBytes _ _ = _
    rw [toList_getD body (show 15 < 17 by decide), toList_getD body (show 15 + 1 < 17 by decide)]
  · have report : (fun p : PortNo => body.toList.getD (5 + p.val) 0) = fun p : PortNo => body[5 + p.val] :=
      funext fun p => toList_getD body (by omega)
    rwa [report] at facts

/-- Settles O38. -/
theorem joinMovesPeer : Obligations.JoinMovesPeer := by
  intro sender sequence body crc times n s hn arrives
  obtain ⟨p, hp⟩ : ∃ p, p = joinedPeer n s.params s.peers[sender] := ⟨_, rfl⟩
  obtain ⟨ds, hds⟩ : ∃ ds, ds = if s.control.station = .operating then [Demand.state] else [] := ⟨_, rfl⟩
  obtain ⟨t, ht⟩ : ∃ t, t = bump .receivedJoin (movePeer sender p ds [] (spendReceiver times s)) := ⟨_, rfl⟩
  have kind : n.kind = .join := by rw [hn]
  have taken : exec (.joinReceived sender sequence body ⟨crc, times⟩) s = .next t := by
    have accepted : sequenceAccepted n s.peers[n.sender] = true := by rw [sequenceAccepted, kind]; rfl
    rw [exec, execJoinReceived, ← hn, frameReceived_accepted arrives accepted, acceptNotice_join kind, ht, hp, hds]
    subst hn
    rfl
  have equal := joinEqual_iff (n := n) (body := body) (by rw [hn]) s.params
  obtain ⟨checksum, digest, facts⟩ := join_body body
  obtain ⟨peer, row, raised⟩ := moved_leaves .receivedJoin ht
  have counted : Counted n times s t ∧ PeerFrame sender s t ∧ TableFollows s t := by
    subst hn
    exact accepted_leaves (by rw [hp]; rfl) (by rw [hp]; rfl) (by rw [hp]; rfl) ht
  obtain ⟨counted, frame, follows⟩ := counted
  refine ⟨t, taken, counted, frame, follows, by rw [peer, hp]; rfl, by rw [peer, hp]; rfl, ?_, ?_, fun same => ?_,
    fun differs => ?_, fun operating => ?_, fun other => ?_⟩
  · rw [peer, hp, ← checksum, hn]
    rfl
  · rw [peer, hp, ← digest, hn]
    rfl
  · have joined := equal.mpr same
    have present : p.state = .present := by rw [hp, joinedPeer, joined]; rfl
    have report : p.report = some (bodyFacts .join body.toList) := by rw [hp, joinedPeer, joined, hn]; rfl
    rw [peer]
    refine ⟨present, by rw [hp, joinedPeer, joined]; rfl, report, facts, rowHolds_of_row row present report, ?_⟩
    exact raised.none (by rw [peerRaises_present sender present]; rfl)
  · have refused : joinEqual n s.params = false := by rw [Bool.eq_false_iff, ne_eq, equal]; exact differs
    have mismatch : p.state = .mismatch := by rw [hp, joinedPeer, refused]; rfl
    rw [peerRaises_mismatch sender mismatch] at raised
    rw [peer]
    refine ⟨mismatch, by rw [hp, joinedPeer, refused]; rfl, by rw [hp, joinedPeer, refused]; rfl,
      rowUnheard_of_row row (by rw [mismatch]; decide), fun before => ?_, fun before => ?_⟩
    · rwa [if_neg before] at raised
    · exact raised.none (by rw [if_pos before]; rfl)
  · exact moved_demands .receivedJoin ht (d := .state) (by decide) (by rw [hds, if_pos operating])
  · exact moved_demandsNothing .receivedJoin ht (by rw [hds, if_neg other])

end Sys2Proof.Machine
end

section
/-! The notices STATE and ALERT (R85, R86, R89, R95). -/

namespace Sys2Proof.Machine

/-! ### What an accepted STATE or ALERT moves, asks for and raises -/

/-- The comparison of the digests comes to the divergence limit (R89). -/
def diverges (n : Notice) (s : State) : Bool :=
  reportInstalls n s.params s.peers[n.sender] && decide (Config.divergenceLimit ≤ reportCount n s)

/-- The entry that an accepted STATE or ALERT leaves, with the divergence comparison (R89, R95). -/
def comparedPeer (n : Notice) (s : State) : Peer :=
  { reportedPeer n s.params s.peers[n.sender] with
    divergence :=
      if diverges n s then 0
      else if reportInstalls n s.params s.peers[n.sender] then reportCount n s
      else (reportedPeer n s.params s.peers[n.sender]).divergence }

/-- The demands of an accepted STATE or ALERT (R89, R90). -/
def comparedDemands (n : Notice) (s : State) : List Demand :=
  if diverges n s && !isRunning s.notices.holdoff then [.solicit] else []

/-- What an accepted STATE or ALERT raises beside the move of its entry (R89). -/
def comparedRaises (n : Notice) (s : State) : List Raise :=
  if diverges n s then [raiseAbout .viewDivergence n.sender.val] else []

theorem reportAccepted_eq (n : Notice) (s : State) :
    reportAccepted n s = movePeer n.sender (comparedPeer n s) (comparedDemands n s) (comparedRaises n s) s := by
  rw [reportAccepted, comparedPeer, comparedDemands, comparedRaises, diverges]
  cases installs : reportInstalls n s.params s.peers[n.sender] with
  | false => rfl
  | true =>
    rw [if_pos rfl]
    by_cases below : reportCount n s < Config.divergenceLimit
    · rw [if_pos below, decide_eq_false (Nat.not_le.mpr below)]
      rfl
    · rw [if_neg below, decide_eq_true (Nat.not_lt.mp below)]
      cases isRunning s.notices.holdoff <;> rfl

theorem comparedPeer_row (n : Notice) (s : State) (row : Vector Candidate 8) :
    peerRow (comparedPeer n s) row = peerRow (reportedPeer n s.params s.peers[n.sender]) row := peerRow_congr rfl rfl row

theorem movePeer_digest (i : StationNo) (p : Peer) (ds : List Demand) (rs : List Raise) (s : State) :
    (movePeer i p ds rs s).table.digest = (changeRow i (peerRow p s.table.rows[i]) s.table).digest := by
  rw [movePeer, search_digest, raiseEvents_table, demands_table]
  rfl

theorem reportAccepted_digest (n : Notice) (s : State) :
    (reportAccepted n s).table.digest = digestAfter n (reportedPeer n s.params s.peers[n.sender]) s := by
  rw [reportAccepted_eq, movePeer_digest, comparedPeer_row, digestAfter]

section Comparison
variable {n : Notice} {s : State}

theorem reportCount_agreed
    (same : digestAfter n (reportedPeer n s.params s.peers[n.sender]) s = bodyDigest n.kind n.body) :
    reportCount n s = 0 := by
  rw [reportCount, comparedCount, if_pos same]

theorem reportCount_differs
    (differs : digestAfter n (reportedPeer n s.params s.peers[n.sender]) s ≠ bodyDigest n.kind n.body) :
    reportCount n s = s.peers[n.sender].divergence + 1 := by
  rw [reportCount, comparedCount, if_neg differs]

section Installed
variable (installs : reportInstalls n s.params s.peers[n.sender] = true)
include installs

theorem compared_below (below : reportCount n s < 3) :
    (comparedPeer n s).divergence = reportCount n s ∧ comparedDemands n s = [] ∧ comparedRaises n s = [] := by
  have not : diverges n s = false := by
    rw [diverges, installs, Bool.true_and, decide_eq_false_iff_not]
    exact Nat.not_le.mpr below
  exact ⟨by rw [comparedPeer, not, installs]; rfl, by rw [comparedDemands, not]; rfl, by rw [comparedRaises, not]; rfl⟩

theorem compared_limit (limit : reportCount n s = 3) :
    (comparedPeer n s).divergence = 0 ∧
    comparedDemands n s = (if isRunning s.notices.holdoff = true then [] else [.solicit]) ∧
    comparedRaises n s = [raiseAbout .viewDivergence n.sender.val] := by
  have past : diverges n s = true := by
    rw [diverges, installs, Bool.true_and, decide_eq_true_eq, limit]
    exact Nat.le_refl 3
  refine ⟨by rw [comparedPeer, past]; rfl, ?_, by rw [comparedRaises, past]; rfl⟩
  rw [comparedDemands, past]
  cases isRunning s.notices.holdoff <;> rfl

theorem compared_installed :
    (comparedPeer n s).state = .present ∧ (comparedPeer n s).source = none ∧
    (comparedPeer n s).report = some (bodyFacts n.kind n.body) := by
  rw [comparedPeer, reportedPeer, installs]
  exact ⟨rfl, rfl, rfl⟩

end Installed
end Comparison

theorem compared_refused {n : Notice} {s : State} (refuses : reportInstalls n s.params s.peers[n.sender] = false) :
    (comparedPeer n s).state = .mismatch ∧ (comparedPeer n s).report = s.peers[n.sender].report ∧
    (comparedPeer n s).source =
      (if s.peers[n.sender].state = .mismatch ∧ s.peers[n.sender].source = some .byJoin then some .byJoin
        else some .byChecksum) ∧
    (s.peers[n.sender].state = .present → (comparedPeer n s).divergence = 0) ∧
    comparedDemands n s = [] ∧ comparedRaises n s = [] := by
  have not : diverges n s = false := by rw [diverges, refuses, Bool.false_and]
  refine ⟨?_, ?_, ?_, fun present => ?_, by rw [comparedDemands, not]; rfl, by rw [comparedRaises, not]; rfl⟩
  · rw [comparedPeer, reportedPeer, refuses]; rfl
  · rw [comparedPeer, reportedPeer, refuses]; rfl
  · rw [comparedPeer, reportedPeer, refuses]; rfl
  · rw [comparedPeer, not, reportedPeer, refuses, if_pos (show _ ∧ _ from ⟨rfl, present⟩)]; rfl

theorem reportInstalls_iff {n : Notice} {params : Params} {p : Peer} :
    reportInstalls n params p = true ↔
      bodyChecksum n.kind n.body = params.checksum ∧ ¬ (p.state = .mismatch ∧ p.source = some .byJoin) := by
  simp only [reportInstalls, Bool.and_eq_true, Bool.not_eq_true', beq_iff_eq, Bool.and_eq_false_iff, beq_eq_false_iff_ne,
    not_and_or, ne_eq]

/-! ### The notices themselves -/

/-- A notice of the kinds that carry a report alone. -/
def IsReport (n : Notice) : Prop := n.kind = .state ∨ n.kind = .alert

theorem acceptNotice_report {n : Notice} (report : IsReport n) (s : State) :
    acceptNotice n s = bump (receivedCounter n.kind) (reportAccepted n s) := by
  rcases report with kind | kind
  · rw [acceptNotice, kind]
  · rw [acceptNotice, kind]

/-- The body of a STATE or ALERT as its bytes give it (R177). -/
theorem report_body {n : Notice} (report : IsReport n) (body : Vector Byte 13) :
    bodyChecksum n.kind body.toList = body[0] ∧ bodyDigest n.kind body.toList = ofBytes body[11] body[12] ∧
    ReadAs (fun p => body[1 + p.val]) (256 * body[9].toNat + body[10].toNat) (bodyFacts n.kind body.toList) := by
  have facts := readFacts_readAs body.toList 1 9
  rw [toList_getD body (show 9 < 13 by decide), toList_getD body (show 9 + 1 < 13 by decide)] at facts
  have bytes : (fun p : PortNo => body.toList.getD (1 + p.val) 0) = fun p : PortNo => body[1 + p.val] :=
    funext fun p => toList_getD body (by omega)
  rw [bytes] at facts
  have checksum : body.toList.getD 0 0 = body[0] := toList_getD body (show 0 < 13 by decide)
  have digest : bodyHalf body.toList 11 = ofBytes body[11] body[12] := by
    rw [bodyHalf, toList_getD body (show 11 < 13 by decide), toList_getD body (show 11 + 1 < 13 by decide)]
  rcases report with kind | kind
  · rw [kind]
    exact ⟨checksum, digest, facts⟩
  · rw [kind]
    exact ⟨checksum, digest, facts⟩

/-- The command of a STATE or an ALERT, and the notice it carries. -/
theorem report_command {c : Instr} {sender : StationNo} {sequence : Byte} {body : Vector Byte 13} {crc : Half}
    {times : List (Option Int)} {n : Notice}
    (command : c = .stateReceived sender sequence body ⟨crc, times⟩ ∨ c = .alertReceived sender sequence body ⟨crc, times⟩)
    (carried : noticeOf c = some n) (s : State) :
    exec c s = .next (frameReceived n times s) ∧ IsReport n ∧ n.sender = sender ∧ n.body = body.toList := by
  rcases command with rfl | rfl
  · obtain rfl := Option.some.inj carried
    exact ⟨rfl, .inl rfl, rfl, rfl⟩
  · obtain rfl := Option.some.inj carried
    exact ⟨rfl, .inr rfl, rfl, rfl⟩

/-- Settles O39. -/
theorem reportMovesPeer : Obligations.ReportMovesPeer := by
  intro c sender sequence body crc times n s command carried arrives accepted
  obtain ⟨executed, report, rfl, fields⟩ := report_command command carried s
  obtain ⟨u, hu⟩ : ∃ u, u = spendReceiver times s := ⟨_, rfl⟩
  obtain ⟨p, hp⟩ : ∃ p, p = comparedPeer n u := ⟨_, rfl⟩
  obtain ⟨ds, hds⟩ : ∃ ds, ds = comparedDemands n u := ⟨_, rfl⟩
  obtain ⟨rs, hrs⟩ : ∃ rs, rs = comparedRaises n u := ⟨_, rfl⟩
  have params : u.params = s.params := by rw [hu]; rfl
  have before : u.peers[n.sender] = s.peers[n.sender] := by rw [hu]; rfl
  have holdoff : u.notices = s.notices := by rw [hu]; rfl
  obtain ⟨t, ht⟩ : ∃ t, t = bump (receivedCounter n.kind) (movePeer n.sender p ds rs (spendReceiver times s)) := ⟨_, rfl⟩
  have moved : t = bump (receivedCounter n.kind) (reportAccepted n u) := by rw [reportAccepted_eq, ht, hp, hds, hrs, hu]
  have taken : exec c s = .next t := by
    rw [executed, frameReceived_accepted arrives (sequenceAccepted_of_accepted accepted), acceptNotice_report report,
      moved, hu]
  obtain ⟨checksum, digest, facts⟩ := report_body report body
  rw [← fields] at checksum digest facts
  obtain ⟨peer, row, raised⟩ := moved_leaves (receivedCounter n.kind) ht
  obtain ⟨counted, frame, follows⟩ : Counted n times s t ∧ PeerFrame n.sender s t ∧ TableFollows s t :=
    accepted_leaves (by rw [hp]; rfl) (by rw [hp, ← before]; rfl) (by rw [hp, ← before]; rfl) ht
  have own : t.table.digest = digestAfter n (reportedPeer n u.params u.peers[n.sender]) u := by
    rw [moved, bump_table, reportAccepted_digest]
  have installing : reportInstalls n u.params u.peers[n.sender] = true ↔
      body[0] = s.params.checksum ∧ ¬ (s.peers[n.sender].state = .mismatch ∧ s.peers[n.sender].source = some .byJoin) := by
    rw [reportInstalls_iff, checksum, params, before]
  rw [← fields]
  refine ⟨t, taken, counted, frame, follows, by rw [peer, hp, ← params]; rfl, by rw [peer, hp, ← checksum]; rfl,
    by rw [peer, hp, ← digest]; rfl, fun equal notByJoin => ?_, fun refusal => ?_⟩
  · have installs := installing.mpr ⟨equal, notByJoin⟩
    obtain ⟨present, source, held⟩ := compared_installed installs
    rw [← hp] at present source held
    rw [peerRaises_present n.sender present, List.nil_append] at raised
    rw [peer, own, ← digest]
    have quiet (below : reportCount n u < 3) :
        p.divergence = reportCount n u ∧ DemandsNothing s t ∧ t.events = s.events := by
      obtain ⟨count, noDemands, noRaises⟩ := compared_below installs below
      exact ⟨by rw [hp, count], moved_demandsNothing _ ht (by rw [hds, noDemands]), raised.none (by rw [hrs, noRaises])⟩
    refine ⟨present, source, held, facts, rowHolds_of_row row present held, fun same => ?_, fun differs few => ?_,
      fun differs two => ?_⟩
    · have count := reportCount_agreed same
      rw [← count]
      exact quiet (by omega)
    · have count := reportCount_differs differs
      rw [before] at count
      rw [← count]
      exact quiet (by omega)
    · have count := reportCount_differs differs
      rw [before, two] at count
      obtain ⟨cleared, asked, others⟩ := compared_limit installs count
      rw [holdoff] at asked
      refine ⟨by rw [hp, cleared], by rwa [hrs, others] at raised, fun running => ?_, fun stopped => ?_⟩
      · exact moved_demandsNothing _ ht (by rw [hds, asked, if_pos running])
      · exact moved_demands _ ht (d := .solicit) (by decide) (by rw [hds, asked, stopped]; rfl)
  · have refuses : reportInstalls n u.params u.peers[n.sender] = false := by
      rw [Bool.eq_false_iff, ne_eq, installing]
      tauto
    obtain ⟨mismatch, kept, source, cleared, noDemands, noRaises⟩ := compared_refused refuses
    rw [← hp] at mismatch kept source cleared
    rw [before] at kept source cleared
    rw [peerRaises_mismatch n.sender mismatch, hrs, noRaises, List.append_nil] at raised
    rw [peer]
    refine ⟨mismatch, kept, source, cleared, rowUnheard_of_row row (by rw [mismatch]; decide),
      moved_demandsNothing _ ht (by rw [hds, noDemands]), fun was => raised.none (if_pos was), fun was => ?_⟩
    rwa [if_neg was] at raised

end Sys2Proof.Machine
end

section
/-! The notices SOLICIT and LEAVE (R87, R88, R96, R97), and the loss of a peer (R98 to R100). -/

namespace Sys2Proof.Machine

/-! ### SOLICIT -/

theorem acceptNotice_solicit {n : Notice} (kind : n.kind = .solicit) (s : State) :
    acceptNotice n s = bump .receivedSolicit (solicitAccepted n s) := by
  rw [acceptNotice, kind]
  rfl

/-- What acceptance counts and keeps, where no entry moves (R58, R82). -/
theorem solicited_counted {n : Notice} {times : List (Option Int)} {s t : State} {ds : List Demand}
    (kind : n.kind = .solicit) (ht : t = bump .receivedSolicit (demands ds { spendReceiver times s with
      peers := s.peers.set n.sender (solicitedPeer n s.params s.peers[n.sender]) })) :
    Counted n times s t := by
  have peer : t.peers[n.sender] = solicitedPeer n s.params s.peers[n.sender] := by
    rw [ht, bump_peers, demands_peers, peer_set_same]
  refine ⟨by rw [peer]; rfl, by rw [peer]; rfl, by rw [peer]; rfl, ?_, fun c other => ?_, ?_, ?_⟩
  · rw [ht, kind, receivedCounter, counterOf_bump_same]
    simp [counterOf, spendReceiver]
  · simp only [kind, receivedCounter, List.mem_cons, not_or] at other
    rw [ht, counterOf_bump_other other.1]
    simp [counterOf, spendReceiver]
  · rw [ht, bump_pins, demands_pins]
    rfl
  · refine frameEnds_of_demands ?_
    have demanded := demands_bus ds { spendReceiver times s with
      peers := s.peers.set n.sender (solicitedPeer n s.params s.peers[n.sender]) }
    unfold BusDemandsOnly at demanded ⊢
    rwa [ht, bump_bus]

/-- Settles O40. -/
theorem solicitAsksForReport : Obligations.SolicitAsksForReport := by
  intro sender sequence body crc times n s hn arrives accepted
  obtain ⟨kind, hsender, hsequence, fields⟩ : n.kind = .solicit ∧ n.sender = sender ∧ n.sequence = sequence ∧
      n.body = body.toList := by rw [hn]; exact ⟨rfl, rfl, rfl, rfl⟩
  subst hsender
  obtain ⟨ds, hds⟩ : ∃ ds, ds = if s.peers[n.sender].state = .present then [Demand.state] else [] := ⟨_, rfl⟩
  obtain ⟨p, hp⟩ : ∃ p, p = solicitedPeer n s.params s.peers[n.sender] := ⟨_, rfl⟩
  obtain ⟨v, hv⟩ : ∃ v : State, v = { spendReceiver times s with peers := s.peers.set n.sender p } := ⟨_, rfl⟩
  obtain ⟨t, ht⟩ : ∃ t, t = bump .receivedSolicit (demands ds v) := ⟨_, rfl⟩
  have taken : exec (.solicitReceived n.sender sequence body ⟨crc, times⟩) s = .next t := by
    rw [exec, execSolicitReceived, ← hn, frameReceived_accepted arrives (sequenceAccepted_of_accepted accepted),
      acceptNotice_solicit kind, ht, hv, hp, hds]
    rfl
  have queue : v.bus.queue = s.bus.queue := by rw [hv]; exact spendReceiver_queue times s
  have flight : v.bus.inFlight = s.bus.inFlight := by rw [hv]; exact spendReceiver_inFlight times s
  have bus : t.bus = (demands ds v).bus := by rw [ht, bump_bus]
  have peers : t.peers = s.peers.set n.sender p := by rw [ht, bump_peers, demands_peers, hv]
  have digest : bodyDigest n.kind n.body = ofBytes body[0] body[1] := by
    rw [kind, fields, bodyDigest, bodyHalf, toList_getD body (show 0 < 2 by decide),
      toList_getD body (show 0 + 1 < 2 by decide)]
  have table : t.table = s.table := by rw [ht, bump_table, demands_table, hv]; rfl
  refine ⟨t, taken, solicited_counted kind (by rw [ht, hv, hp]), ?_, ?_, table, ?_, ?_, ?_, fun present => ?_,
    fun other => ?_⟩
  · refine ⟨?_, ?_, ?_, ?_, ?_, ?_, ?_, ?_, ?_, ?_, ?_, ?_, fun j other => ⟨?_, by rw [table]⟩⟩
    case refine_13 => rw [peers, peer_set_other s.peers other]
    all_goals rw [ht, hv]; simp [spendReceiver]
  · rw [peers, peer_set_same, hp, solicitedPeer, digest, ← hsequence]
    rfl
  · rw [ht, hv]; simp [spendReceiver]
  · rw [ht, counterOf_bump_other (by decide), hv]; simp [counterOf, spendReceiver]
  · rw [ht, hv]; simp [spendReceiver]
  · have asked : ds = [.state] := by rw [hds, if_pos present]
    exact (demands_all bus (by decide : Demand.state ≠ .leave) (by simp [asked]) (by simp [asked])).congr
      (by rw [hv]; rfl) queue flight
  · exact (demands_none bus (by rw [hds, if_neg other])).congr queue flight

/-! ### The loss of a peer -/

theorem acceptNotice_leave {n : Notice} (kind : n.kind = .leave) (s : State) :
    acceptNotice n s = bump .receivedLeave (leaveAccepted n s) := by
  rw [acceptNotice, kind]
  rfl

theorem peerRaises_lost (i : StationNo) {old new : Peer} (lost : new.state = .silent ∨ new.state = .absent) :
    peerRaises i old new = if old.state = .present then [raiseAbout .peerLost i.val] else [] := by
  have heard : new.state ≠ .mismatch := by rcases lost with h | h <;> rw [h] <;> decide
  simp [peerRaises, lost, heard]

/-- What a peer's loss leaves where it is no notice that brings it (R98, R99, R105). -/
theorem lost_leaves (i : StationNo) {p : Peer} (s : State) (lost : p.state = .silent ∨ p.state = .absent) :
    PeerFrame i s (movePeer i p [] [] s) ∧ TableFollows s (movePeer i p [] [] s) ∧
    (movePeer i p [] [] s).bus = s.bus ∧ CountersBut [.recomputes] s (movePeer i p [] [] s) ∧
    (movePeer i p [] [] s).peers[i] = p ∧ RowUnheard i s (movePeer i p [] [] s) ∧
    (s.peers[i].state = .present → Raises [raiseAbout .peerLost i.val] s (movePeer i p [] [] s)) ∧
    (s.peers[i].state ≠ .present → (movePeer i p [] [] s).events = s.events) := by
  have raised := movePeer_raises i p [] [] s
  rw [peerRaises_lost i lost, List.append_nil] at raised
  have notPresent : p.state ≠ .present := by rcases lost with h | h <;> rw [h] <;> decide
  refine ⟨movePeer_peerFrame i p [] [] s, movePeer_tableFollows i p [] [] s, movePeer_bus i p [] [] s,
    movePeer_countersBut i p [] [] s, movePeer_peer i p [] [] s, rowUnheard_of_row (movePeer_row i p [] [] s) notPresent,
    fun present => ?_, fun other => raised.none (if_neg other)⟩
  rwa [if_pos present] at raised

theorem exec_leaveReceived {i : StationNo} {sequence : Byte} {crc : Half} {times : List (Option Int)} {n : Notice}
    {s : State} (hn : n = { kind := .leave, sender := i, sequence := sequence, body := [], crc := crc })
    (arrives : Arrives n s) (accepted : Accepted n s) :
    exec (.leaveReceived i sequence ⟨crc, times⟩) s =
      .next (bump .receivedLeave (movePeer i (absentPeer (acceptedPeer n s.peers[i])) [] [] (spendReceiver times s))) := by
  rw [exec, execLeaveReceived, ← hn, frameReceived_accepted arrives (sequenceAccepted_of_accepted accepted),
    acceptNotice_leave (by rw [hn])]
  subst hn
  rfl

theorem absentPeer_notPresent {p : Peer} : (absentPeer p).state ≠ .present := PeerState.noConfusion

/-- An accepted LEAVE (R88, R97). -/
theorem leave_loses {i : StationNo} {sequence : Byte} {crc : Half} {times : List (Option Int)} {n : Notice}
    {s t : State} (hn : n = { kind := .leave, sender := i, sequence := sequence, body := [], crc := crc })
    (ht : t = bump .receivedLeave (movePeer i (absentPeer (acceptedPeer n s.peers[i])) [] [] (spendReceiver times s))) :
    Counted n times s t ∧ PeerFrame i s t ∧ TableFollows s t ∧
    t.peers[i] = absentPeer (acceptedPeer n s.peers[i]) ∧ RowUnheard i s t ∧ DemandsNothing s t ∧
    (s.peers[i].state = .present → Raises [raiseAbout .peerLost i.val] s t) ∧
    (s.peers[i].state ≠ .present → t.events = s.events) := by
  obtain ⟨counted, frame, follows⟩ : Counted n times s t ∧ PeerFrame n.sender s t ∧ TableFollows s t := by
    subst hn
    exact accepted_leaves (p := absentPeer (acceptedPeer _ s.peers[i])) rfl rfl rfl ht
  obtain ⟨peer, row, raised⟩ := moved_leaves .receivedLeave ht
  rw [peerRaises_lost i (.inr rfl), List.append_nil] at raised
  refine ⟨counted, by rwa [hn] at frame, follows, peer, rowUnheard_of_row row absentPeer_notPresent, moved_demandsNothing _ ht rfl,
    fun present => ?_, fun other => raised.none (if_neg other)⟩
  rwa [if_pos present] at raised

theorem fallActs_eq_true {i : StationNo} {s : State} (on : receiveOn s.control.station = true)
    (inUse : s.params.presenceInUse = true)
    (known : s.peers[i].state = .present ∨ s.peers[i].state = .silent ∨ s.peers[i].state = .mismatch) :
    fallActs i s = true := by
  rw [fallActs, on, inUse]
  rcases known with known | known | known
  · rw [known]; rfl
  · rw [known]; rfl
  · rw [known]; rfl

theorem fallActs_eq_false {i : StationNo} {s : State}
    (out : receiveOn s.control.station = false ∨ s.params.presenceInUse = false ∨ s.peers[i].state = .localEntry ∨
      s.peers[i].state = .absent) : fallActs i s = false := by
  rw [fallActs]
  rcases out with out | out | out | out
  · simp [out]
  · simp [out]
  · rw [out]; simp
  · rw [out]; simp

/-- Settles O41. -/
theorem peerIsLost : Obligations.PeerIsLost := by
  intro i s
  refine ⟨fun sequence crc times n hn arrives accepted => ?_, fun heard running => ?_, fun high on inUse known => ?_,
    fun high out => ?_, rfl⟩
  · obtain ⟨t, ht⟩ : ∃ t, t = bump .receivedLeave
        (movePeer i (absentPeer (acceptedPeer n s.peers[i])) [] [] (spendReceiver times s)) := ⟨_, rfl⟩
    obtain ⟨counted, frame, follows, peer, row, quiet, lost, other⟩ := leave_loses hn ht
    refine ⟨t, by rw [exec_leaveReceived hn arrives accepted, ht], counted, frame, follows, ?_, row, quiet, lost, other⟩
    rw [peer, hn]
    rfl
  · obtain ⟨t, ht⟩ : ∃ t, t = movePeer i (silentPeer s.peers[i]) [] [] s := ⟨_, rfl⟩
    have leaves := lost_leaves i s (p := silentPeer s.peers[i]) (.inl rfl)
    rw [← ht] at leaves
    obtain ⟨frame, follows, bus, counters, peer, row, lost, other⟩ := leaves
    have acts : isHeard s.peers[i] = true := by
      rw [isHeard]
      rcases heard with heard | heard
      · rw [heard]
      · rw [heard]
    refine ⟨t, ?_, frame, follows, by rw [ht, movePeer_pins], bus, counters, peer, row, lost,
      fun mismatch => other (by rw [mismatch]; decide)⟩
    rw [exec, execSilenceTimerExpiry, acts, running, ht]
    rfl
  · obtain ⟨t, ht⟩ : ∃ t, t = movePeer i (absentPeer s.peers[i]) [] []
        { s with pins := { s.pins with presence := s.pins.presence.set i false } } := ⟨_, rfl⟩
    have leaves := lost_leaves i { s with pins := { s.pins with presence := s.pins.presence.set i false } }
      (p := absentPeer s.peers[i]) (.inr rfl)
    rw [← ht] at leaves
    obtain ⟨frame, follows, bus, counters, peer, row, lost, other⟩ := leaves
    refine ⟨t, ?_, frame, follows, bus, by rw [ht, movePeer_pins], counters, peer, row, lost, other⟩
    rw [exec, execPresenceLineFall, if_neg (by rw [high]; decide), if_pos (fallActs_eq_true on inUse known), ht]
  · rw [exec, execPresenceLineFall, if_neg (by rw [high]; decide), if_neg (by rw [fallActs_eq_false out]; decide)]

end Sys2Proof.Machine
end

section
/-! The frames that R78 discards, and the clash (R13, R78 to R82). -/

namespace Sys2Proof.Machine

/-! ### Frames that are discarded -/

/-- The command of a notice, while receive is on and no attempt is. -/
theorem exec_noticeOf {c : Instr} {n : Notice} (carried : noticeOf c = some n) (s : State) :
    exec c s = .next (frameReceived n (timesOf c) s) := by
  cases c with
  | joinReceived | stateReceived | alertReceived | solicitReceived | leaveReceived =>
    obtain rfl := Option.some.inj carried
    rfl
  | _ => cases carried

theorem crcAgrees_eq_false {n : Notice} (bad : n.crc ≠ crc16 (headerByte n.kind n.sender :: n.sequence :: n.body)) :
    crcAgrees n = false := by
  rw [Bool.eq_false_iff, ne_eq, crcAgrees_iff]
  exact bad

theorem not_isClash {n : Notice} {s : State}
    (other : n.crc ≠ crc16 (headerByte n.kind n.sender :: n.sequence :: n.body) ∨ n.sender ≠ s.control.number) :
    isClash n s = false := by
  rw [isClash, Bool.and_eq_false_iff, beq_eq_false_iff_ne]
  exact other.imp_left crcAgrees_eq_false

theorem frameDuringAttempt_other {n : Notice} {s : State} {f : InFlight} {times : List (Option Int)}
    (other : n.crc ≠ crc16 (headerByte n.kind n.sender :: n.sequence :: n.body) ∨ n.sender ≠ s.control.number) :
    frameDuringAttempt f n times s = s := by
  rw [frameDuringAttempt, not_isClash other, if_neg (by decide)]

/-- A frame that ends and is counted, and nothing else. -/
theorem spent_counted (c : Counter) (times : List (Option Int)) (s : State) :
    FrameEnds times s (bump c (spendReceiver times s)) ∧ DemandsNothing s (bump c (spendReceiver times s)) ∧
    counterOf c (bump c (spendReceiver times s)) = saturatingHalf (counterOf c s) ∧
    CountersBut [c] s (bump c (spendReceiver times s)) ∧
    bump c (spendReceiver times s) =
      { s with
        bus := (bump c (spendReceiver times s)).bus, counters := (bump c (spendReceiver times s)).counters } :=
  ⟨frameEnds_of_bus rfl, demandsNothing_of_bus rfl, counterOf_bump_same c (spendReceiver times s),
    CountersBut.bump c (spendReceiver times s), rfl⟩

theorem checkNotice_badCrc {n : Notice} (bad : crcAgrees n = false) (s : State) :
    checkNotice n s = bump .crcFailures s := if_pos bad

/-! ### The bytes of a COMPLETE frame -/

theorem kindCode_of_kindOfCode {nibble : BitVec 4} {kind : NoticeKind} (h : kindOfCode nibble = some kind) :
    kindCode kind = nibble := by
  revert nibble
  cases kind <;> decide

theorem noticeLength_ge (kind : NoticeKind) : 4 ≤ noticeLength kind := by cases kind <;> decide

theorem headerByte_of_kindOfCode {header : Byte} {kind : NoticeKind}
    (h : kindOfCode (header.extractLsb' 4 4) = some kind) :
    headerByte kind ⟨header.toNat % 16, Nat.mod_lt _ (by decide)⟩ = header := by
  rw [headerByte, kindCode_of_kindOfCode h]
  apply BitVec.eq_of_toNat_eq
  rw [BitVec.toNat_append, high_nibble_toNat, BitVec.toNat_ofNat,
    ← Nat.shiftLeft_add_eq_or_of_lt (Nat.mod_lt _ (by decide)), Nat.shiftLeft_eq]
  show header.toNat / 16 * 16 + header.toNat % 16 % 16 = header.toNat
  omega

/-- The notice in the bytes of a COMPLETE frame carries the bytes its CRC covers, and the CRC that was sent. -/
theorem noticeOfBytes_complete {covered : List Byte} {crc : Half}
    (declared : declaredLength (covered.getD 0 0) = some (covered.length + 2)) :
    ∃ n, noticeOfBytes (covered ++ [highByte crc, lowByte crc]) = some n ∧
      headerByte n.kind n.sender :: n.sequence :: n.body = covered ∧ n.crc = crc := by
  obtain ⟨kind, named, length⟩ := Option.map_eq_some_iff.mp declared
  match covered, declared, named, length with
  | [], _, _, length =>
    have long := noticeLength_ge kind
    rw [length] at long
    exact absurd long (by decide)
  | [_], _, _, length =>
    have long := noticeLength_ge kind
    rw [length] at long
    exact absurd (show 4 ≤ 3 from long) (by decide)
  | header :: sequence :: body, _, named, length =>
    have long : noticeLength kind = body.length + 4 := length
    refine ⟨_, by rw [noticeOfBytes]; exact congrArg _ named, ?_, ?_⟩
    · have rest : (body ++ [highByte crc, lowByte crc]).take (noticeLength kind - 4) = body := by
        rw [long, Nat.add_sub_cancel, List.take_left]
      exact congrArg₂ List.cons (headerByte_of_kindOfCode named) (congrArg (List.cons sequence) rest)
    · have high : (header :: sequence :: body ++ [highByte crc, lowByte crc]).getD (noticeLength kind - 2) 0 =
          highByte crc := by
        rw [long, show body.length + 4 - 2 = (header :: sequence :: body).length from rfl]
        simp
      have low : (header :: sequence :: body ++ [highByte crc, lowByte crc]).getD (noticeLength kind - 1) 0 =
          lowByte crc := by
        rw [long, show body.length + 4 - 1 = (header :: sequence :: body).length + 1 from rfl]
        simp
      show ofBytes _ _ = crc
      rw [high, low, ofBytes_high_low]

theorem handOn_badCrc {covered : List Byte} {crc : Half}
    (declared : declaredLength (covered.getD 0 0) = some (covered.length + 2)) (bad : crc ≠ crc16 covered) (s : State) :
    handOn (.complete (covered ++ [highByte crc, lowByte crc])) s = bump .crcFailures s := by
  obtain ⟨n, parsed, bytes, sent⟩ := noticeOfBytes_complete (crc := crc) declared
  rw [handOn, parsed]
  exact checkNotice_badCrc (crcAgrees_eq_false (by rw [bytes, sent]; exact bad)) s

theorem sequenceAccepted_eq_false {n : Notice} {p : Peer} (kind : n.kind ≠ .join)
    (heard : p.state = .present ∨ p.state = .mismatch)
    (old : (256 + n.sequence.toNat - p.lastSequence.toNat) % 256 = 0 ∨
      128 ≤ (256 + n.sequence.toNat - p.lastSequence.toNat) % 256) : sequenceAccepted n p = false := by
  have stale : follows n.sequence p.lastSequence = false := by
    rw [Bool.eq_false_iff, ne_eq, follows_iff]
    omega
  rw [sequenceAccepted, beq_eq_false_iff_ne.mpr kind, Bool.false_or]
  rcases heard with present | mismatch
  · rw [present, ← stale]
  · rw [mismatch, ← stale]

theorem checkNotice_unseated {n : Notice} {s : State} (crc : crcAgrees n = true) (other : n.sender ≠ s.control.number)
    (inUse : s.params.presenceInUse = true) (unseated : s.pins.presence[n.sender] = false) :
    checkNotice n s = bump .unseatedNotices s := by
  rw [checkNotice, if_neg (by rw [crc]; decide), if_neg other, if_pos (by rw [senderSeated, inUse, unseated]; rfl)]

theorem exec_badFrame {s : State} (on : receiveOn s.control.station = true) (flight : s.bus.inFlight = none)
    (frame : Heard BadFrame) :
    exec (.badFrameReceived frame) s = .next (handOn (badFrameHanded frame.value) (spendReceiver frame.times s)) := by
  rw [exec, execBadFrameReceived, on, flight]
  rfl

/-- Settles O36. -/
theorem discardedFramesAreCounted : Obligations.DiscardedFramesAreCounted := by
  refine ⟨fun s frame out => ?_, fun c n s carried out => ?_, fun s times on flight => ⟨?_, ?_, ?_, ?_⟩,
    fun c n s carried on flight crc other => ⟨fun inUse unseated => ?_, fun seated kind heard old => ?_⟩⟩
  · rw [exec, execBadFrameReceived, if_neg]
    rcases out with off | flight
    · simp [off]
    · obtain ⟨f, held⟩ := Option.isSome_iff_exists.mp flight
      simp [held]
  · rw [exec_noticeOf carried, frameReceived]
    rcases out with off | ⟨flight, noClash⟩
    · rw [if_neg (by rw [off]; decide)]
    · obtain ⟨f, held⟩ := Option.isSome_iff_exists.mp flight
      rw [held]
      show Host.Outcome.next (if _ then frameDuringAttempt f n _ s else s) = _
      rw [frameDuringAttempt_other noClash, ite_self]
  · exact ⟨_, exec_badFrame on flight _, spent_counted .codeViolations times s⟩
  · exact ⟨_, exec_badFrame on flight _, spent_counted .truncations times s⟩
  · exact fun covered crc declared bad => ⟨_, (exec_badFrame on flight _).trans
      (congrArg _ (handOn_badCrc declared bad _)), spent_counted .crcFailures times s⟩
  · intro c n carried bad
    refine ⟨_, ?_, spent_counted .crcFailures (timesOf c) s⟩
    rw [exec_noticeOf carried, frameReceived_outside on flight, checkNotice_badCrc (crcAgrees_eq_false bad)]
  · refine ⟨_, ?_, spent_counted .unseatedNotices (timesOf c) s⟩
    rw [exec_noticeOf carried, frameReceived_outside on flight]
    exact congrArg _ (checkNotice_unseated (s := spendReceiver (timesOf c) s) ((crcAgrees_iff n).mpr crc) other inUse
      unseated)
  · refine ⟨staleNotice n (spendReceiver (timesOf c) s), ?_, frameEnds_of_bus rfl, demandsNothing_of_bus rfl,
      counterOf_bump_same _ _, CountersBut.bump .staleNotices _, rfl⟩
    rw [exec_noticeOf carried, frameReceived_seated ⟨on, flight, crc, other, seated⟩,
      if_pos (sequenceAccepted_eq_false kind heard old)]

/-! ### The clash (R13) -/

/-- The state of a station that a clash mutes, before the raise and the search (R13, R71, R110). -/
def mutedByClash (s : State) : State :=
  { s with
    control := { s.control with
      station := .muted, settle := if s.control.station = .joining then .stopped else s.control.settle }
    bus := cutQueue s.bus
    table := { s.table with
      dirty := if s.control.station = .joining then Vector.replicate 4 true else s.table.dirty } }

theorem clash_mutes {s : State} (speaks : s.control.station = .joining ∨ s.control.station = .operating ∨
    (s.control.station = .quiet ∧ s.control.restartPending = false)) :
    clash s = search (raiseEvents [raiseAbout .stationClash s.control.number.val] (mutedByClash s)) := by
  rcases speaks with joining | operating | ⟨quiet, pending⟩
  · rw [clash, mutedByClash, joining]
    rfl
  · rw [clash, mutedByClash, operating]
    rfl
  · rw [clash, mutedByClash, quiet, pending]
    rfl

/-- The state in which a frame that is a clash is reported: its cells have passed, and nothing else has changed (R55,
R60). -/
def ClashHeard (times : List (Option Int)) (s u : State) : Prop :=
  u = { s with bus := u.bus } ∧ Timed times s.bus u.bus ∧
  u.bus = { s.bus with boundary := u.bus.boundary, missed := u.bus.missed, receiver := u.bus.receiver } ∧
  (s.bus.inFlight = none → u.bus.receiver = { Receiver.reset with phase := .spent }) ∧
  (∀ f, s.bus.inFlight = some f →
    (s.bus.recovery = .track →
      u.bus.receiver = receiveSilently s.bus.receiver (((frameCells f.frame).take times.length).map some)) ∧
    (s.bus.recovery = .seek → u.bus.receiver = s.bus.receiver))

theorem frameReceived_clash {n : Notice} {times : List (Option Int)} {s : State}
    (on : receiveOn s.control.station = true)
    (crc : n.crc = crc16 (headerByte n.kind n.sender :: n.sequence :: n.body)) (own : n.sender = s.control.number) :
    ∃ u, frameReceived n times s = clash u ∧ ClashHeard times s u := by
  have agrees := (crcAgrees_iff n).mpr crc
  cases flight : s.bus.inFlight with
  | none =>
    obtain ⟨timed, ends⟩ := spendReceiver_ends times s
    refine ⟨spendReceiver times s, ?_, rfl, timed, ?_, fun _ => rfl, fun f held => absurd (flight.symm.trans held) (by simp)⟩
    · rw [frameReceived_outside on flight, checkNotice, if_neg (by rw [agrees]; decide),
        if_pos (show n.sender = (spendReceiver times s).control.number from own)]
    · rw [spendReceiver_queue, spendReceiver_inFlight] at ends
      exact ends
  | some f =>
    have clashes : isClash n s = true := by rw [isClash, agrees, own, beq_self_eq_true]; rfl
    have during : frameDuringAttempt f n times s = clash { s with bus := hearEcho f times s.bus } := if_pos clashes
    refine ⟨{ s with bus := hearEcho f times s.bus }, ?_, rfl, hearEcho_timed f times s.bus, hearEcho_frame f times s.bus,
      fun idle => absurd (flight.symm.trans idle) (by simp), fun g held => ?_⟩
    · rw [frameReceived, if_pos on, flight, ← during]
    · obtain rfl := Option.some.inj (flight.symm.trans held)
      refine ⟨fun track => ?_, fun seek => ?_⟩
      · show (hearEcho f times s.bus).receiver = _
        rw [hearEcho, if_pos track]
        rfl
      · show (hearEcho f times s.bus).receiver = _
        rw [hearEcho, if_neg (by rw [seek]; decide)]

/-- The interrupt that an event of a FATAL kind brings (R174, R176). -/
theorem interrupt_of_fatal {s t : State} {r : Raise} (raised : Raises [r] s t) (fatal : eventSeverity r.kind = .fatal) :
    t.events.interrupt = true := by
  obtain ⟨-, taken⟩ := raised
  obtain ⟨flags, -, -, -, -, agrees⟩ := taken (List.cons_ne_nil _ _)
  exact agrees.1.mpr ⟨r.kind, (flags r.kind).mpr (.inr ⟨r, List.mem_singleton_self r, rfl⟩), .inl fatal⟩

theorem raises_congr {rs : List Raise} {s u t : State} (raised : Raises rs u t) (events : u.events = s.events) :
    Raises rs s t := by
  unfold Raises at raised ⊢
  rwa [events] at raised

/-- Settles O37. -/
theorem clashMutesStation : Obligations.ClashMutesStation := by
  intro c n s carried crc own
  refine ⟨fun speaks => ?_, fun quiet pending => ?_, fun muted => ?_⟩
  · have on : receiveOn s.control.station = true := by
      rcases speaks with station | station | ⟨station, -⟩
      · rw [station]; rfl
      · rw [station]; rfl
      · rw [station]; rfl
    obtain ⟨u, received, same, timed, bus, outside, inside⟩ := frameReceived_clash (times := timesOf c) on crc own
    obtain ⟨t, ht⟩ : ∃ t, t = search (raiseEvents [raiseAbout .stationClash s.control.number.val]
        (mutedByClash u)) := ⟨_, rfl⟩
    have taken : exec c s = .next t := by
      rw [exec_noticeOf carried, received, clash_mutes (by rw [same]; exact speaks), ht, same]
    have raised : Raises [raiseAbout .stationClash s.control.number.val] s t := by
      have raised := raiseEvents_raises [raiseAbout .stationClash s.control.number.val] (mutedByClash u)
      rw [ht]
      refine raises_congr (u := mutedByClash u) ?_ (by rw [same]; rfl)
      unfold Raises at raised ⊢
      rwa [search_events]
    have cut : t.bus = cutQueue u.bus := by rw [ht]; simp [mutedByClash]
    refine ⟨t, taken, ?_, ?_, ?_, fun idle => ?_, fun f flies => ?_, raised, interrupt_of_fatal raised rfl, ?_, ?_, ?_,
      ?_, ?_, ?_, ?_, ?_, ?_, ?_, ?_, ?_, ?_, ?_, ?_, ?_, ?_⟩
    case refine_1 => rw [ht, same]; simp [mutedByClash]
    case refine_2 =>
      rw [cut, cutQueue, bus]
    case refine_3 =>
      rw [cut]
      exact timed
    case refine_4 =>
      rw [cut]
      exact outside idle
    case refine_5 =>
      rw [cut]
      exact inside f flies
    case refine_6 =>
      rw [ht, same]
      refine search_searchFollows rfl (fun h => ?_) rfl
      by_cases joining : s.control.station = .joining
      · simp [mutedByClash, joining]
      · simp [mutedByClash, joining]
    case refine_10 =>
      rw [ht, same]
      exact (search_countersBut _ : CountersBut [.recomputes] _ _)
    all_goals rw [ht, same]; simp [mutedByClash]
  · obtain ⟨u, received, same, -⟩ := frameReceived_clash (times := timesOf c) (by rw [quiet]; rfl) crc own
    have resets : clash u = restartReset u := by
      rw [same, clash, quiet, pending]
      rfl
    refine ⟨restartReset u, by rw [exec_noticeOf carried, received, resets], ?_, restartReset_resets ?_ ?_ ?_⟩
    all_goals rw [same]
    rfl
  · obtain ⟨u, received, same, timed, bus, outside, -⟩ :=
      frameReceived_clash (times := timesOf c) (by rw [muted]; rfl) crc own
    have raising : clash u = raiseEvents [raiseAbout .stationClash s.control.number.val] u := by
      rw [same, clash, muted]
    have left := raiseEvents_single (raiseAbout .stationClash s.control.number.val) u
    refine ⟨clash u, by rw [exec_noticeOf carried, received], ?_, ?_, fun idle => ?_, ?_⟩
    · rw [raising]
      exact raises_congr (raiseEvents_raises _ u) (by rw [same])
    · rw [raising, DemandsNothing, raiseEvents_bus, bus]
      exact ⟨rfl, rfl⟩
    · rw [raising, FrameEnds, raiseEvents_bus]
      exact ⟨timed, by rw [bus, outside idle]⟩
    · rw [raising, left, same]

end Sys2Proof.Machine
end

section
/-! Transactions of the inspection port, and the bytes of its commands (R164, R165, R179). -/

namespace Sys2Proof.Machine

/-! ### Transactions -/

theorem takeCommand_closed {s : State} (closed : s.spi ≠ .opened) (status : CommandStatus) (data : List Byte)
    (effect : State → State) : takeCommand status data effect s = s := if_neg closed

theorem exec_inspection_closed {c : Instr} (inspection : isInspection c = true) {s : State} (closed : s.spi ≠ .opened) :
    exec c s = .next s := by
  obtain ⟨data, effect, -, taken⟩ := takenByChecks_of_isInspection inspection s
  rw [taken, takeCommand_closed closed]

theorem exec_unknownCommand {s : State} (opened : s.spi = .opened) (awake : s.control.station ≠ .loading) (byte : Byte) :
    exec (.unknownCommand byte) s = .next { s with spi := .taken 0x61 [] } :=
  exec_refused (status := .badArgument) rfl opened (commandStatus_badArgument awake _ _) (by decide)

theorem misoByte_data (status : Byte) (data : List Byte) (place : Nat) :
    misoByte (.taken status data) (place + 1) = (data[place]?).getD 0xFF := rfl

/-! ### What the host reads on MISO -/

theorem misoRead_append (taken : Nat) (t : Transaction) (before after : List SckEdge) (p : SpiShift) :
    misoRead taken t p (before ++ after) = misoRead taken t p before ++ misoRead taken t (shiftEdges p before) after := by
  induction before generalizing p with
  | nil => rfl
  | cons edge before ih =>
    cases edge with
    | rise mosi => exact congrArg _ (ih (shiftEdge p (.rise mosi)))
    | fall => exact ih (shiftEdge p .fall)

/-- The host reads a byte of the transaction beside each byte that it clocks in. -/
theorem misoRead_bytes (taken : Nat) (t : Transaction) (bytes : List Byte) {p : SpiShift} {place : Nat}
    (start : p.bits = []) (falls : p.falls = 8 * place) :
    misoRead taken t p (bytes.flatMap byteEdges) =
      (List.range' place bytes.length).flatMap fun place => byteCells (transactionByte taken t place) := by
  induction bytes generalizing p place with
  | nil => rfl
  | cons b bytes ih =>
    rw [List.flatMap_cons, misoRead_append, misoRead_byte taken t start falls, shiftEdges_byte start,
      ih (p := { p with bytes := p.bytes ++ [b], falls := p.falls + 8 }) (place := place + 1) start (by rw [falls]; rfl),
      List.length_cons, List.range'_succ, List.flatMap_cons]

/-- Settles O12. -/
theorem transactionsOpenAndEnd : Obligations.TransactionsOpenAndEnd := by
  refine ⟨fun s => ⟨rfl, rfl, fun c inspection closed => exec_inspection_closed inspection closed,
    fun byte opened awake => exec_unknownCommand opened awake byte⟩,
    fun place status data => ⟨rfl, rfl, rfl, fun byte here => ?_, fun past => ?_⟩,
    fun taken t => ⟨fun place => ⟨fun before => if_pos before, fun after => if_neg (Nat.not_lt.mpr after)⟩, fun bytes => ?_,
      fun p mosi => misoLevel_rise taken t p mosi⟩⟩
  · rw [misoByte_data, here]
    rfl
  · rw [misoByte_data, List.getElem?_eq_none past]
    rfl
  · rw [misoRead_bytes taken t bytes (place := 0) rfl rfl, List.range_eq_range']
    rfl

/-! ### The bytes that take a command -/

/-- The bytes of a command take it, whatever comes after. -/
theorem takenCommand_of_inspectionBytes {i : Instr} {bytes : List Byte} (wf : i.wf = true)
    (carried : inspectionBytes i = some bytes) (more : List Byte) : takenCommand (bytes ++ more) = some i := by
  cases i with
  | unknownCommand byte =>
    obtain rfl := Option.some.inj carried
    have unnamed : argumentLength byte = none := by simpa [Instr.wf] using wf
    simp [takenCommand, unnamed]
  | status | readUplink | readPeer | readCandidate | readCounters | readEvents | drain | undrain | quiet | wake
  | restart =>
    obtain rfl := Option.some.inj carried
    simp [takenCommand, argumentLength]
  | readEntry | clearEvents | setMask =>
    obtain rfl := Option.some.inj carried
    simp [takenCommand, argumentLength]
  | _ => cases carried

theorem inspection_statement (i : Instr) : Laws.Inspection.Statement i := by
  cases i with
  | unknownCommand byte => exact Laws.Inspection.unknownCommand byte
  | status | readUplink | readPeer | readCandidate | readEntry | readCounters | readEvents | clearEvents | setMask | drain
  | undrain | quiet | wake | restart => exact .ofBytes rfl rfl
  | _ => exact .ofNone rfl

/-- Fewer bytes take no command. -/
theorem takenCommand_take {i : Instr} {bytes : List Byte} (wf : i.wf = true)
    (carried : inspectionBytes i = some bytes) {n : Nat} (few : n < bytes.length) : takenCommand (bytes.take n) = none := by
  obtain ⟨c, args, rfl, length | ⟨-, rfl⟩⟩ := inspection_statement i bytes carried wf
  · cases n with
    | zero => rfl
    | succ n =>
      have short : (args.take n).length < args.length := by
        rw [List.length_take]
        exact lt_of_le_of_lt (Nat.min_le_left _ _) (Nat.lt_of_succ_lt_succ few)
      rw [List.take_succ_cons, takenCommand, length]
      exact if_pos short
  · obtain rfl : n = 0 := Nat.lt_one_iff.mp few
    rfl

/-! ### The edges of SCK that bring the bytes -/

/-- The two edges of a bit. -/
def bitEdges (bit : Bool) : List SckEdge := [.rise bit, .fall]

theorem flatMap_byteEdges (bytes : List Byte) : bytes.flatMap byteEdges = (bytes.flatMap byteCells).flatMap bitEdges :=
  (List.flatMap_assoc ..).symm

/-- Whether an edge is a rise. -/
def isRise : SckEdge → Bool
  | .rise _ => true
  | .fall => false

/-- Each rise shifts one bit in. -/
theorem shiftEdges_count (edges : List SckEdge) {p : SpiShift} (short : p.bits.length < 8) :
    8 * (shiftEdges p edges).bytes.length + (shiftEdges p edges).bits.length =
      8 * p.bytes.length + p.bits.length + edges.countP isRise := by
  induction edges generalizing p with
  | nil => rfl
  | cons edge edges ih =>
    show 8 * (shiftEdges (shiftEdge p edge) edges).bytes.length + (shiftEdges (shiftEdge p edge) edges).bits.length = _
    cases edge with
    | fall => exact ih short
    | rise mosi =>
      rw [List.countP_cons_of_pos (by rfl)]
      by_cases room : p.bits.length + 1 < 8
      · have step : shiftEdge p (.rise mosi) = { p with bits := p.bits ++ [mosi] } := if_pos room
        rw [step, ih (by simpa using room)]
        simp only [List.length_append, List.length_singleton]
        omega
      · have step : shiftEdge p (.rise mosi) =
            { p with bits := [], bytes := p.bytes ++ [byteOfBits (p.bits ++ [mosi])] } := if_neg room
        rw [step, ih (p := { p with bits := [], bytes := p.bytes ++ [byteOfBits (p.bits ++ [mosi])] }) (Nat.succ_pos 7)]
        simp only [List.length_append, List.length_singleton, List.length_nil]
        omega

/-- Of the first edges of a run of bits at most every other one is a rise. -/
theorem countP_take_bitEdges (bits : List Bool) (n : Nat) :
    2 * ((bits.flatMap bitEdges).take n).countP isRise ≤ n + 1 := by
  induction bits generalizing n with
  | nil => simp
  | cons bit bits ih =>
    match n with
    | 0 => simp
    | 1 => simp [bitEdges, isRise]
    | n + 2 =>
      have := ih n
      have step : (((bit :: bits).flatMap bitEdges).take (n + 2)).countP isRise =
          ((bits.flatMap bitEdges).take n).countP isRise + 1 := List.countP_cons_of_pos rfl
      omega

theorem shiftEdges_start_bytes (bytes : List Byte) :
    (shiftEdges SpiShift.start (bytes.flatMap byteEdges)).bytes = bytes := by
  rw [shiftEdges_bytes rfl]
  rfl

theorem length_flatMap_byteEdges (bytes : List Byte) : (bytes.flatMap byteEdges).length = 16 * bytes.length := by
  induction bytes with
  | nil => rfl
  | cons b bytes ih =>
    rw [List.flatMap_cons, List.length_append, ih, List.length_cons]
    show 16 + 16 * bytes.length = _
    omega

/-- The last edge that brings a byte is a fall, which shifts nothing in. -/
theorem shiftEdges_last {bytes : List Byte} (some : bytes ≠ []) :
    (shiftEdges SpiShift.start ((bytes.flatMap byteEdges).take (16 * bytes.length - 1))).bytes = bytes := by
  obtain ⟨front, b, rfl⟩ := (bytes.eq_nil_or_concat').resolve_left some
  obtain ⟨init, split⟩ : ∃ init, byteEdges b = init ++ [.fall] := ⟨(byteEdges b).dropLast, rfl⟩
  have all : (front ++ [b]).flatMap byteEdges = front.flatMap byteEdges ++ init ++ [.fall] := by
    rw [List.flatMap_append, List.flatMap_singleton, split, List.append_assoc]
  have whole := shiftEdges_start_bytes (front ++ [b])
  rw [← length_flatMap_byteEdges, ← List.dropLast_eq_take]
  rw [all, shiftEdges_append] at whole
  rw [all, List.dropLast_concat]
  exact whole

/-- The bytes that are complete after the first edges are the first bytes. -/
theorem shiftEdges_take (bytes : List Byte) {n : Nat} (few : n + 1 < 16 * bytes.length) :
    ∃ m, m < bytes.length ∧ (shiftEdges SpiShift.start ((bytes.flatMap byteEdges).take n)).bytes = bytes.take m := by
  obtain ⟨shifted, hs⟩ : ∃ shifted, shifted = shiftEdges SpiShift.start ((bytes.flatMap byteEdges).take n) := ⟨_, rfl⟩
  obtain ⟨more, joined⟩ := shiftEdges_keeps shifted ((bytes.flatMap byteEdges).drop n)
  rw [hs, ← shiftEdges_append, List.take_append_drop, shiftEdges_start_bytes, ← hs] at joined
  refine ⟨shifted.bytes.length, ?_, ?_⟩
  case refine_2 =>
    rw [← hs]
    conv_rhs => rw [joined, List.take_left]
  have count := shiftEdges_count ((bytes.flatMap byteEdges).take n) (p := SpiShift.start) (by decide)
  have rises := countP_take_bitEdges (bytes.flatMap byteCells) n
  rw [← flatMap_byteEdges] at rises
  rw [← hs] at count
  have nothing : 8 * SpiShift.start.bytes.length + SpiShift.start.bits.length = 0 := rfl
  omega

/-- Settles O60. -/
theorem inspectionBytesTakeCommand : Obligations.InspectionBytesTakeCommand := by
  refine ⟨fun byte => rfl, fun i bytes wf carried => ⟨?_, fun n few => takenCommand_take wf carried few, fun more => ?_,
    fun n few => ?_⟩⟩
  · rw [← takenCommand_of_inspectionBytes wf carried [], List.append_nil]
  · have some : bytes ≠ [] := by
      obtain ⟨c, args, rfl, -⟩ := inspection_statement i bytes carried wf
      exact List.cons_ne_nil c args
    obtain ⟨later, joined⟩ := shiftEdges_keeps
      (shiftEdges SpiShift.start ((bytes.flatMap byteEdges).take (16 * bytes.length - 1))) more
    rw [commandClockedIn, shiftEdges_append, joined, shiftEdges_last some]
    exact takenCommand_of_inspectionBytes wf carried later
  · obtain ⟨m, fewer, taken⟩ := shiftEdges_take bytes few
    rw [commandClockedIn, taken]
    exact takenCommand_take wf carried fewer

end Sys2Proof.Machine
end

section
/-! The replies of the reading commands, byte by byte (chapter 10, R179). -/

namespace Sys2Proof.Machine

/-! ### Reading commands, flags bytes and two-byte values -/

/-- A reading command that no check holds back, in an open transaction, captures its reply. -/
theorem takeReading_accepted {s : State} (opened : s.spi = .opened) (awake : s.control.station ≠ .loading)
    (data : List Byte) : takeReading false data s = { s with spi := .taken 0x5A data } := by
  rw [takeReading, commandStatus_accepted awake, takeCommand_accepted opened]
  rfl

theorem flagBits_four : ∀ a b c d : Bool,
    (flagBit a 0 ||| flagBit b 1 ||| flagBit c 2 ||| flagBit d 3).getLsbD 0 = a ∧
    (flagBit a 0 ||| flagBit b 1 ||| flagBit c 2 ||| flagBit d 3).getLsbD 1 = b ∧
    (flagBit a 0 ||| flagBit b 1 ||| flagBit c 2 ||| flagBit d 3).getLsbD 2 = c ∧
    (flagBit a 0 ||| flagBit b 1 ||| flagBit c 2 ||| flagBit d 3).getLsbD 3 = d := by decide

theorem flagBits_three : ∀ a b c : Bool,
    (flagBit a 0 ||| flagBit b 1 ||| flagBit c 2).getLsbD 0 = a ∧
    (flagBit a 0 ||| flagBit b 1 ||| flagBit c 2).getLsbD 1 = b ∧
    (flagBit a 0 ||| flagBit b 1 ||| flagBit c 2).getLsbD 2 = c := by decide

theorem flagBits_six : ∀ a b c d e f : Bool,
    (flagBit a 0 ||| flagBit b 1 ||| flagBit c 2 ||| flagBit d 3 ||| flagBit e 4 ||| flagBit f 5).getLsbD 0 = a ∧
    (flagBit a 0 ||| flagBit b 1 ||| flagBit c 2 ||| flagBit d 3 ||| flagBit e 4 ||| flagBit f 5).getLsbD 1 = b ∧
    (flagBit a 0 ||| flagBit b 1 ||| flagBit c 2 ||| flagBit d 3 ||| flagBit e 4 ||| flagBit f 5).getLsbD 2 = c ∧
    (flagBit a 0 ||| flagBit b 1 ||| flagBit c 2 ||| flagBit d 3 ||| flagBit e 4 ||| flagBit f 5).getLsbD 3 = d ∧
    (flagBit a 0 ||| flagBit b 1 ||| flagBit c 2 ||| flagBit d 3 ||| flagBit e 4 ||| flagBit f 5).getLsbD 4 = e ∧
    (flagBit a 0 ||| flagBit b 1 ||| flagBit c 2 ||| flagBit d 3 ||| flagBit e 4 ||| flagBit f 5).getLsbD 5 = f := by
  decide

theorem highByte_flags (flags : BitVec 12) : highByte (flags.setWidth 16) = (flags.extractLsb' 8 4).setWidth 8 := by
  apply BitVec.eq_of_toNat_eq
  have := flags.isLt
  rw [highByte_toNat, BitVec.toNat_setWidth, BitVec.toNat_setWidth, BitVec.extractLsb'_toNat, Nat.shiftRight_eq_div_pow]
  omega

theorem lowByte_flags (flags : BitVec 12) : lowByte (flags.setWidth 16) = flags.extractLsb' 0 8 := by
  apply BitVec.eq_of_toNat_eq
  rw [lowByte_toNat, BitVec.toNat_setWidth, BitVec.extractLsb'_toNat, Nat.shiftRight_zero]
  omega

theorem highByte_number {n : Nat} (small : n < 65536) : highByte (BitVec.ofNat 16 n) = BitVec.ofNat 8 (n / 256) := by
  apply BitVec.eq_of_toNat_eq
  rw [highByte_toNat, BitVec.toNat_ofNat, BitVec.toNat_ofNat]
  omega

theorem lowByte_number (n : Nat) : lowByte (BitVec.ofNat 16 n) = BitVec.ofNat 8 (n % 256) := by
  apply BitVec.eq_of_toNat_eq
  rw [lowByte_toNat, BitVec.toNat_ofNat, BitVec.toNat_ofNat]
  omega

/-! ### STATUS -/

theorem statusReply_eq (s : State) :
    statusReply s =
      [stationCode s.control.station, numberByte s.control.number.val, causeCode s.control.cause, stationFlags s,
        highByte s.table.digest, lowByte s.table.digest,
        dirtyByte s, numberByte (peerCount .absent s), numberByte (peerCount .present s),
        numberByte (peerCount .silent s), numberByte (peerCount .mismatch s), engineByte s.engine.run,
        highByte (bucketInProgress s.engine.run), lowByte (bucketInProgress s.engine.run),
        numberByte s.engine.pointer.val] ++
      (groupStatus s 0 ++ groupStatus s 1 ++ groupStatus s 2 ++ groupStatus s 3) ++
      [highByte (s.events.pending.setWidth 16), lowByte (s.events.pending.setWidth 16),
        severityCode s.events.severity] := rfl

/-- The three bytes of a group stand at their places (R149, R179). -/
theorem statusReply_group (s : State) (g : Group) :
    (statusReply s)[15 + 3 * g.val]? =
      some (flagBit s.map.active[g] 0 ||| flagBit s.engine.retried[g] 1 ||| flagBit s.engine.fault[g] 2) ∧
    (statusReply s)[16 + 3 * g.val]? = some (highByte s.map.generation[g]) ∧
    (statusReply s)[17 + 3 * g.val]? = some (lowByte s.map.generation[g]) := by
  fin_cases g <;> exact ⟨rfl, rfl, rfl⟩

theorem dirtyByte_get (s : State) (g : Group) : (dirtyByte s).getLsbD g.val = s.table.dirty[g] := by
  obtain ⟨zero, one, two, three⟩ :=
    flagBits_four s.table.dirty[0] s.table.dirty[1] s.table.dirty[2] s.table.dirty[3]
  fin_cases g
  · exact zero
  · exact one
  · exact two
  · exact three

theorem engineByte_running (g : Group) (b : Bucket) : engineByte (.running g b) = BitVec.ofNat 8 (128 + g.val) := by
  have all : ∀ g : Group, 0x80 ||| numberByte g.val = BitVec.ofNat 8 (128 + g.val) := by decide
  exact all g

/-- Settles O14. -/
theorem statusReplyPlaces : Obligations.StatusReplyPlaces := by
  refine ⟨rfl, rfl, rfl, fun s opened awake => ⟨statusReply s, ?_, rfl, rfl, rfl, fun f here => ?_, rfl, rfl,
    fun f here g => ?_, rfl, rfl, rfl, rfl, fun idle => ?_, fun g b running => ?_, rfl, fun g => ⟨fun f here => ?_, ?_, ?_⟩,
    ?_, ?_, rfl, rfl⟩⟩
  · rw [exec, execStatus, takeReading_accepted opened awake]
  · obtain rfl : stationFlags s = f := Option.some.inj here
    exact flagBits_four _ _ _ _
  · obtain rfl : dirtyByte s = f := Option.some.inj here
    exact dirtyByte_get s g
  · rw [statusReply_eq, idle]
    exact ⟨rfl, rfl, rfl⟩
  · have small : b.val < 65536 := lt_trans b.isLt (by decide)
    rw [statusReply_eq, running, engineByte_running, bucketInProgress, highByte_number small, lowByte_number]
    exact ⟨rfl, rfl, rfl⟩
  · obtain ⟨flags, -, -⟩ := statusReply_group s g
    obtain rfl := Option.some.inj (flags.symm.trans here)
    exact flagBits_three _ _ _
  · exact (statusReply_group s g).2.1
  · exact (statusReply_group s g).2.2
  · rw [← highByte_flags]
    rfl
  · rw [← lowByte_flags]
    rfl

/-! ### READ UPLINK -/

theorem portByte_eq (p : Port) :
    portByte p = BitVec.ofNat 8 (128 * p.enabled.toNat + 16 * p.group.val + p.weight.toNat) := by
  have all : ∀ (e : Bool) (g : Fin 4) (w : BitVec 4),
      flagBit e 7 ||| (numberByte g.val <<< 4) ||| w.setWidth 8 = BitVec.ofNat 8 (128 * e.toNat + 16 * g.val + w.toNat) := by
    decide
  exact all p.enabled p.group p.weight

theorem timersByte_eq : ∀ a b : Bool, flagBit a 0 ||| flagBit b 1 = BitVec.ofNat 8 (a.toNat + 2 * b.toNat) := by decide

theorem marksByte_eq : ∀ a b c : Bool,
    flagBit a 2 ||| flagBit b 1 ||| flagBit c 0 = BitVec.ofNat 8 (4 * a.toNat + 2 * b.toNat + c.toNat) := by decide

theorem actionsByte_eq (params : Params) :
    actionsByte params = BitVec.ofNat 8 (16 * (actionCode params.codeAction).toNat +
      4 * (actionCode params.slipAction).toNat + (actionCode params.frameAction).toNat) := by
  have all : ∀ a b c : BitVec 2, (a.setWidth 8 <<< 4) ||| (b.setWidth 8 <<< 2) ||| c.setWidth 8 =
      BitVec.ofNat 8 (16 * a.toNat + 4 * b.toNat + c.toNat) := by decide
  exact all _ _ _

theorem exec_readUplink {s : State} {port : Byte} {p : PortNo} (named : portOfByte port = p)
    (inRange : decide (8 ≤ port.toNat) = false) (opened : s.spi = .opened) (awake : s.control.station ≠ .loading) :
    exec (.readUplink port) s =
      .next { s with spi := .taken 0x5A (uplinkMonitorReply s p ++ uplinkGraderReply s p) } := by
  rw [exec, execReadUplink, inRange, named, takeReading_accepted opened awake]

/-- Settles O15. -/
theorem uplinkReplyPlaces : Obligations.UplinkReplyPlaces := by
  refine ⟨rfl, rfl, rfl, fun s p opened awake =>
    ⟨_, exec_readUplink (portOfByte_ofNat p) (portByte_inRange p) opened awake, ?_⟩⟩
  rw [uplinkMonitorReply, uplinkGraderReply, portByte_eq, timersByte_eq, marksByte_eq, actionsByte_eq,
    ← BitVec.ofNat_toNat, ← BitVec.ofNat_toNat]
  rfl

/-! ### READ COUNTERS -/

theorem halfBytes_places (values : List Half) (k : Nat) :
    (values.flatMap halfBytes)[2 * k]? = values[k]?.map highByte ∧
    (values.flatMap halfBytes)[2 * k + 1]? = values[k]?.map lowByte := by
  induction values generalizing k with
  | nil => exact ⟨rfl, rfl⟩
  | cons v values ih =>
    cases k with
    | zero => exact ⟨rfl, rfl⟩
    | succ k => exact ih k

theorem length_halfBytes (values : List Half) : (values.flatMap halfBytes).length = 2 * values.length := by
  induction values with
  | nil => rfl
  | cons v values ih =>
    rw [List.flatMap_cons, List.length_append, ih, List.length_cons]
    show 2 + 2 * values.length = _
    omega

/-- Settles O17. -/
theorem countersReplyPlaces : Obligations.CountersReplyPlaces := by
  refine ⟨by decide, fun s opened awake => ⟨s.counters.toList.flatMap halfBytes, ?_, ?_, fun c => ?_⟩⟩
  · rw [exec, execReadCounters, takeReading_accepted opened awake]
  · rw [length_halfBytes, Vector.length_toList]
  · obtain ⟨high, low⟩ := halfBytes_places s.counters.toList (counterIndex c).val
    have value : s.counters.toList[(counterIndex c).val]? = some (counterOf c s) := by simp [counterOf]
    rw [high, low, value]
    exact ⟨rfl, rfl⟩

end Sys2Proof.Machine
end

section
/-! The replies of READ PEER, READ CANDIDATE, READ ENTRY and READ EVENTS (R111, R112, R148, R169, R179). -/

namespace Sys2Proof.Machine

/-! ### The groups field of a report (R177) -/

theorem pushGroup_toNat (field : Half) (g : Group) :
    ((field <<< 2) ||| BitVec.ofNat 16 g.val).toNat = 4 * field.toNat % 65536 + g.val := by
  have small := g.isLt
  rw [BitVec.toNat_or, BitVec.toNat_shiftLeft, BitVec.toNat_ofNat, Nat.mod_eq_of_lt (by omega : g.val < 2 ^ 16),
    Nat.shiftLeft_eq, show field.toNat * 2 ^ 2 % 2 ^ 16 = (field.toNat % 2 ^ 14) <<< 2 by rw [Nat.shiftLeft_eq]; omega,
    ← Nat.shiftLeft_add_eq_or_of_lt (by omega), Nat.shiftLeft_eq]
  omega

theorem foldl_pushGroup_toNat (a b c d e f g h : Group) :
    ([a, b, c, d, e, f, g, h].foldl (fun (field : Half) g => (field <<< 2) ||| BitVec.ofNat 16 g.val) 0).toNat =
      16384 * a.val + 4096 * b.val + 1024 * c.val + 256 * d.val + 64 * e.val + 16 * f.val + 4 * g.val + h.val := by
  simp only [List.foldl_cons, List.foldl_nil, pushGroup_toNat, show (0 : Half).toNat = 0 from rfl]
  omega

/-- A group reads back from the groups field (R177). -/
theorem groupsField_group (groups : Vector Group 8) (p : PortNo) :
    (groupsField groups).toNat / 4 ^ (7 - p.val) % 4 = groups[p].val := by
  have field : (groupsField groups).toNat = _ := foldl_pushGroup_toNat groups[0] groups[1] groups[2] groups[3] groups[4]
    groups[5] groups[6] groups[7]
  rw [field]
  have small (k : PortNo) : groups[k].val < 4 := groups[k].isLt
  have s0 := small 0
  have s1 := small 1
  have s2 := small 2
  have s3 := small 3
  have s4 := small 4
  have s5 := small 5
  have s6 := small 6
  have s7 := small 7
  simp only [Fin.getElem_fin] at s0 s1 s2 s3 s4 s5 s6 s7
  fin_cases p <;> simp <;> omega

/-! ### READ PEER -/

theorem stationOfByte_ofNat (i : StationNo) : stationOfByte (BitVec.ofNat 8 i.val) = i := by
  revert i
  decide

theorem stationByte_inRange (i : StationNo) : decide (16 ≤ (BitVec.ofNat 8 i.val).toNat) = false := by
  revert i
  decide

theorem exec_readPeer {s : State} {station : Byte} {i : StationNo} (named : stationOfByte station = i)
    (inRange : decide (16 ≤ station.toNat) = false) (opened : s.spi = .opened) (awake : s.control.station ≠ .loading) :
    exec (.readPeer station) s = .next { s with spi := .taken 0x5A (peerReply s i) } := by
  rw [exec, execReadPeer, inRange, named, takeReading_accepted opened awake]

/-- The bytes of READ PEER before the report. -/
def peerHead (s : State) (i : StationNo) : List Byte :=
  [peerCode s.peers[i].state, sourceCode s.peers[i].source, s.peers[i].lastSequence, peerFlags s i,
    s.peers[i].lastChecksum.getD 0, highByte (s.peers[i].lastDigest.getD 0), lowByte (s.peers[i].lastDigest.getD 0),
    numberByte s.peers[i].divergence, highByte s.peers[i].accepted, lowByte s.peers[i].accepted,
    highByte s.peers[i].stale, lowByte s.peers[i].stale]

theorem peerReply_eq (s : State) (i : StationNo) : peerReply s i = peerHead s i ++ peerReportReply s.peers[i].report := rfl

/-- The report of READ PEER stands at its place. -/
theorem peerReply_report (s : State) (i : StationNo) (k : Nat) :
    (peerReply s i)[12 + k]? = (peerReportReply s.peers[i].report)[k]? := by
  rw [peerReply_eq, List.getElem?_append_right (show 12 ≤ 12 + k by omega), show 12 + k - (peerHead s i).length = k from
    Nat.add_sub_cancel_left 12 k]

theorem peerReportReply_length (report : Option (Vector Fact 8)) : (peerReportReply report).length = 10 := by
  cases report with
  | none => rfl
  | some facts => simp [peerReportReply, halfBytes]

theorem reportByte_eq (condition : Condition) (weight : Weight) :
    reportByte condition weight = BitVec.ofNat 8 (16 * (conditionCode condition).toNat + weight.toNat) := by
  have all : ∀ code weight : BitVec 4, code ++ weight = BitVec.ofNat 8 (16 * code.toNat + weight.toNat) := by decide
  exact all _ _

section Report
variable (facts : Vector Fact 8)

theorem peerReportReply_fact (p : PortNo) :
    (peerReportReply (some facts))[p.val]? =
      some (BitVec.ofNat 8 (16 * (conditionCode facts[p].condition).toNat + facts[p].weight.toNat)) := by
  rw [← reportByte_eq]
  have inside : p.val < (facts.toList.map fun f => reportByte f.condition f.weight).length := by simp
  rw [peerReportReply, List.getElem?_append_left inside]
  simp

theorem peerReportReply_groups :
    (peerReportReply (some facts))[8]? = some (highByte (groupsField (Vector.ofFn fun p => facts[p].group))) ∧
    (peerReportReply (some facts))[9]? = some (lowByte (groupsField (Vector.ofFn fun p => facts[p].group))) := by
  have length : (facts.toList.map fun f => reportByte f.condition f.weight).length = 8 := by simp
  rw [peerReportReply, List.getElem?_append_right (by rw [length]), List.getElem?_append_right (by rw [length]; decide),
    length]
  exact ⟨rfl, rfl⟩

end Report

theorem high_low_toNat (h : Half) : 256 * (highByte h).toNat + (lowByte h).toNat = h.toNat := by
  rw [highByte_toNat, lowByte_toNat]
  omega

/-! ### READ CANDIDATE -/

theorem uplinkOfByte_ofNat (u : UplinkId) : uplinkOfByte (BitVec.ofNat 8 u.val) = u := by
  have small := u.isLt
  apply Fin.ext
  show (BitVec.ofNat 8 u.val).toNat % 128 = u.val
  rw [BitVec.toNat_ofNat]
  omega

theorem uplinkByte_inRange (u : UplinkId) : decide (128 ≤ (BitVec.ofNat 8 u.val).toNat) = false := by
  have small := u.isLt
  rw [decide_eq_false_iff_not, BitVec.toNat_ofNat]
  omega

theorem exec_readCandidate {s : State} {uplink : Byte} {u : UplinkId} (named : uplinkOfByte uplink = u)
    (inRange : decide (128 ≤ uplink.toNat) = false) (opened : s.spi = .opened) (awake : s.control.station ≠ .loading) :
    exec (.readCandidate uplink) s =
      .next { s with spi := .taken 0x5A (candidateReply (candidateAt s.table.rows u)) } := by
  rw [exec, execReadCandidate, inRange, named, takeReading_accepted opened awake]

theorem candidateReply_eq (c : Candidate) :
    candidateReply c =
      [BitVec.ofNat 8 (128 * (c.source == .peerReport).toNat + (isCandidate c).toNat),
        candidateConditionCode c.condition, BitVec.ofNat 8 c.group.val, BitVec.ofNat 8 c.weight.toNat, contribution c] := by
  have flags : ∀ a b : Bool, flagBit a 7 ||| flagBit b 0 = BitVec.ofNat 8 (128 * a.toNat + b.toNat) := by decide
  rw [candidateReply, candidateFlags, flags, ← BitVec.ofNat_toNat]
  rfl

theorem isCandidate_iff (c : Candidate) :
    isCandidate c = true ↔
      (c.condition = some .ramping ∨ c.condition = some .lit ∨ c.condition = some .degraded) ∧ 1 ≤ c.weight.toNat := by
  have weighs : (c.weight != 0) = true ↔ 1 ≤ c.weight.toNat := by
    rw [bne_iff_ne, ne_eq, BitVec.toNat_eq]
    exact Nat.pos_iff_ne_zero.symm
  unfold isCandidate
  cases held : c.condition with
  | none => simp
  | some condition =>
    dsimp only
    rw [Bool.and_eq_true, weighs]
    cases condition <;> simp [carriesTraffic]

theorem contribution_toNat {c : Candidate} (candidate : isCandidate c = true) :
    (contribution c).toNat = 16 * c.group.val + c.weight.toNat := by
  have group := c.group.isLt
  have weight := c.weight.isLt
  rw [contribution, if_pos candidate, BitVec.toNat_ofNat]
  omega

/-! ### READ ENTRY -/

theorem groupOfByte_ofNat (g : Group) : groupOfByte (BitVec.ofNat 8 g.val) = g := by
  revert g
  decide

theorem bucketOfHalf_ofNat (b : Bucket) : bucketOfHalf (BitVec.ofNat 16 b.val) = b := by
  have small := b.isLt
  apply Fin.ext
  show (BitVec.ofNat 16 b.val).toNat % 2048 = b.val
  rw [BitVec.toNat_ofNat]
  omega

theorem namedBank_ofNat (s : State) (g : Group) (shadow : Bool) :
    namedBank s g (BitVec.ofNat 8 shadow.toNat) = (s.map.active[g] ^^ shadow) := by
  rw [namedBank]
  cases shadow <;> rfl

theorem entryBytes_inRange (g : Group) (b : Bucket) (shadow : Bool) :
    (decide (4 ≤ (BitVec.ofNat 8 g.val).toNat) || decide (2048 ≤ (BitVec.ofNat 16 b.val).toNat) ||
      decide (2 ≤ (BitVec.ofNat 8 shadow.toNat).toNat)) = false := by
  have group := g.isLt
  have bucket := b.isLt
  have bank : shadow.toNat < 2 := shadow.toNat_lt
  rw [Bool.or_eq_false_iff, Bool.or_eq_false_iff, decide_eq_false_iff_not, decide_eq_false_iff_not,
    decide_eq_false_iff_not, BitVec.toNat_ofNat, BitVec.toNat_ofNat, BitVec.toNat_ofNat]
  omega

theorem exec_readEntry {s : State} {group : Byte} {bucket : Half} {bank : Byte} {g : Group} {b : Bucket}
    (inRange : (decide (4 ≤ group.toNat) || decide (2048 ≤ bucket.toNat) || decide (2 ≤ bank.toNat)) = false)
    (inGroup : groupOfByte group = g) (inBucket : bucketOfHalf bucket = b)
    (opened : s.spi = .opened) (awake : s.control.station ≠ .loading) :
    exec (.readEntry group bucket bank) s = .next { s with spi := .taken 0x5A (mapReply s g b bank) } := by
  rw [exec, execReadEntry, inRange, inGroup, inBucket, takeReading_accepted opened awake]

theorem flagBit_zero : ∀ a : Bool, flagBit a 0 = BitVec.ofNat 8 a.toNat := by decide

/-! ### READ EVENTS -/

/-- The two bytes of the first-event record (R169). -/
theorem recordReply_bytes (record : Option Raise) :
    ∃ kind subject, recordReply record = [kind, subject] ∧ (record = none → kind = 0xFF ∧ subject = 0xFF) ∧
      (∀ e, record = some e → kind = BitVec.ofNat 8 (eventNumber e.kind) ∧ subject = e.subject.getD 0xFF) := by
  cases record with
  | none => exact ⟨_, _, rfl, fun _ => ⟨rfl, rfl⟩, fun _ held => nomatch held⟩
  | some r =>
    refine ⟨_, _, rfl, fun absent => (nomatch absent), fun e held => ?_⟩
    obtain rfl := Option.some.inj held
    exact ⟨rfl, rfl⟩

/-- Settles O16. -/
theorem tableReplyPlaces : Obligations.TableReplyPlaces := by
  refine ⟨rfl, rfl, rfl, by decide, fun c => ⟨isCandidate_iff c, fun g => ?_, contribution_toNat, fun other => ?_⟩,
    fun rows => rfl, fun s opened awake => ⟨fun i => ?_, fun u => ?_, fun g b shadow => ?_, ?_⟩⟩
  · rw [isCandidateOf, Bool.and_eq_true, beq_iff_eq]
  · rw [contribution, if_neg (by rw [other]; decide)]
  · refine ⟨peerReply s i, exec_readPeer (stationOfByte_ofNat i) (stationByte_inRange i) opened awake, rfl, rfl, rfl,
      fun f here => ?_, rfl, rfl, rfl, rfl, rfl, rfl, rfl, rfl, fun facts held => ⟨fun p => ?_, fun high hh low hl p => ?_⟩,
      fun absent k least most => ?_, ?_⟩
    · obtain rfl : peerFlags s i = f := Option.some.inj here
      exact flagBits_six _ _ _ _ _ _
    · rw [peerReply_report, held]
      exact peerReportReply_fact facts p
    · obtain ⟨eight, nine⟩ := peerReportReply_groups facts
      rw [show 20 = 12 + 8 from rfl, peerReply_report, held, eight] at hh
      rw [show 21 = 12 + 9 from rfl, peerReply_report, held, nine] at hl
      obtain rfl := Option.some.inj hh
      obtain rfl := Option.some.inj hl
      rw [high_low_toNat, groupsField_group, ofFn_get]
    · obtain ⟨j, rfl⟩ := Nat.exists_eq_add_of_le least
      rw [peerReply_report, absent, peerReportReply, List.getElem?_replicate, if_pos (by omega)]
    · rw [peerReply_eq, List.length_append, peerReportReply_length]
      rfl
  · refine ⟨_, exec_readCandidate (uplinkOfByte_ofNat u) (uplinkByte_inRange u) opened awake, candidateReply_eq _⟩
  · refine ⟨_, exec_readEntry (entryBytes_inRange g b shadow) (groupOfByte_ofNat g) (bucketOfHalf_ofNat b) opened awake, ?_⟩
    rw [mapReply, namedBank_ofNat, flagBit_zero]
    rfl
  · obtain ⟨kind, subject, record, empty, held⟩ := recordReply_bytes s.events.record
    obtain ⟨data, reply⟩ : ∃ data, eventsReply s.events = data := ⟨_, rfl⟩
    refine ⟨data, by rw [exec, execReadEvents, takeReading_accepted opened awake, reply], ?_⟩
    rw [eventsReply, record] at reply
    subst reply
    refine ⟨?_, ?_, ?_, ?_, fun none => ?_, fun e some => ?_, rfl, ?_, rfl⟩
    · rw [← highByte_flags]; rfl
    · rw [← lowByte_flags]; rfl
    · rw [← highByte_flags]; rfl
    · rw [← lowByte_flags]; rfl
    · obtain ⟨rfl, rfl⟩ := empty none
      exact ⟨rfl, rfl⟩
    · obtain ⟨rfl, rfl⟩ := held e some
      exact ⟨rfl, rfl⟩
    · show some (flagBit s.events.interrupt 0) = _
      cases s.events.interrupt <;> rfl

end Sys2Proof.Machine
end

section
/-! The start of an attempt (R62, R63, R70, R74). -/

namespace Sys2Proof.Machine

theorem requiredWait_eq (b : Bus) (e : QueueEntry) : requiredWait b e = waitOf b e := by
  rw [requiredWait, waitOf]
  cases b.backoff with
  | none => rfl
  | some owed => exact congrArg _ (Nat.mul_comm _ _)

section Start
variable {s : State} {cells : Nat}

theorem passIdle_idle (idle : s.bus.line = .idle) :
    passIdle cells s = { s with bus := { s.bus with idleCount := min 255 (s.bus.idleCount + cells) } } := by
  rw [passIdle, idleAfter_idle idle]

theorem passIdle_busy (busy : s.bus.line = .busy) : passIdle cells s = s := by
  rw [passIdle, idleAfter_busy busy]

theorem mayStart_iff (e : QueueEntry) (s : State) :
    mayStart e s = true ↔ transmitAllowed s.control.station e.kind = true ∧ s.bus.inFlight = none ∧ s.bus.line = .idle ∧
      waitOf s.bus e ≤ s.bus.idleCount := by
  rw [mayStart, Bool.and_eq_true, Bool.and_eq_true, Bool.and_eq_true, Option.isNone_iff_eq_none, beq_iff_eq,
    decide_eq_true_eq, requiredWait_eq, and_assoc, and_assoc]

theorem startHead_starts {place : Nat} {e : QueueEntry} (head : IsHead s.bus.queue place e) (may : mayStart e s = true) :
    startHead s = beginAttempt place e s := by
  rw [startHead, headPlace_of_isHead head, head.1]
  exact if_pos may

/-- Nothing starts where no head may. -/
theorem startHead_waits (waits : ∀ e, s.bus.queue[headPlace s.bus.queue]? = some e → mayStart e s = false) :
    startHead s = s := by
  rw [startHead]
  split
  next e held => rw [waits e held, if_neg (by decide)]
  next => rfl

end Start

/-- Settles O30. -/
theorem attemptStartsWithHead : Obligations.AttemptStartsWithHead := by
  refine ⟨fun s cells place e head allowed free idle waited => ?_, fun s cells idle out => ?_,
    fun s cells place e idle head held => ?_, fun s cells busy => ?_⟩
  · have may : mayStart e (passIdle cells s) = true := by
      rw [passIdle_idle idle]
      exact (mayStart_iff e _).mpr ⟨allowed, free, idle, waited⟩
    have starts : startHead (passIdle cells s) = beginAttempt place e (passIdle cells s) := startHead_starts head may
    rw [exec, execAttemptStart, starts, passIdle_idle idle, beginAttempt, afterWait_eq]
    rfl
  · rw [exec, execAttemptStart, passIdle_idle idle, startHead_waits fun e held => ?_]
    rw [Bool.eq_false_iff, ne_eq, mayStart_iff]
    rintro ⟨-, free, -⟩
    rcases out with empty | flies
    · rw [show (_ : List QueueEntry) = [] from empty] at held
      cases held
    · rw [show (_ : Option InFlight) = none from free] at flies
      cases flies
  · rw [exec, execAttemptStart, passIdle_idle idle, startHead_waits fun e' found => ?_]
    obtain rfl : e = e' := by
      rw [headPlace_of_isHead head, head.1] at found
      exact Option.some.inj found
    rw [Bool.eq_false_iff, ne_eq, mayStart_iff]
    rintro ⟨allowed, -, -, waited⟩
    rcases held with barred | early
    · exact absurd (barred.symm.trans allowed) (by decide)
    · exact absurd waited (Nat.not_le.mpr early)
  · rw [exec, execAttemptStart, passIdle_busy busy, startHead_waits fun e _ => ?_]
    rw [Bool.eq_false_iff, ne_eq, mayStart_iff]
    rintro ⟨-, -, idle, -⟩
    exact absurd (busy.symm.trans idle) (by decide)

end Sys2Proof.Machine
end

section
/-! What a cell of the line leaves of the bus (R55 to R60, R64), and the end of a busy time (R56, R61). -/

namespace Sys2Proof.Machine

/-! ### The bus after a frame that the receiver hands on -/

/-- A frame has been handed on while no attempt was on: of the bus the queue has changed at most, and after a clash the
driver is released; or a reset has followed (R13, R71). -/
def HandedOver (s t : State) : Prop :=
  t.bus = Bus.reset ∨
  (t.bus = { s.bus with queue := t.bus.queue, driver := t.bus.driver } ∧
    (t.bus.driver = s.bus.driver ∨ t.bus.driver = .released))

theorem HandedOver.of_queue {s t : State} (queue : t.bus = { s.bus with queue := t.bus.queue }) : HandedOver s t :=
  .inr ⟨by rw [queue], .inl (by rw [queue])⟩

theorem HandedOver.of_eq {s t : State} (same : t.bus = s.bus) : HandedOver s t := .of_queue (by rw [same])

theorem demand_inFlight_none (d : Demand) {s : State} (free : s.bus.inFlight = none) :
    (demand d s).bus.inFlight = none := by
  unfold demand queueDemand
  split_ifs
  · show finalMark s.bus.inFlight = none
    rw [free]
    rfl
  · exact free
  · exact free
  · exact free

theorem demands_inFlight_none (ds : List Demand) {s : State} (free : s.bus.inFlight = none) :
    (demands ds s).bus.inFlight = none := by
  induction ds generalizing s with
  | nil => exact free
  | cons d ds ih => exact ih (demand_inFlight_none d free)

theorem demands_handedOver (ds : List Demand) {s t : State} (free : s.bus.inFlight = none)
    (bus : t.bus = (demands ds s).bus) : HandedOver s t := by
  refine .of_queue ?_
  have demanded := demands_bus ds s
  unfold BusDemandsOnly at demanded
  rw [demands_inFlight_none ds free, ← free] at demanded
  rw [bus]
  exact demanded

section HandedOn
variable {s : State} (free : s.bus.inFlight = none)
include free

theorem acceptNotice_handedOver (n : Notice) : HandedOver s (acceptNotice n s) := by
  unfold acceptNotice
  cases n.kind with
  | join => exact demands_handedOver _ free (by rw [bump_bus, joinAccepted, movePeer_bus])
  | state => exact demands_handedOver _ free (by rw [bump_bus, reportAccepted_eq, movePeer_bus])
  | alert => exact demands_handedOver _ free (by rw [bump_bus, reportAccepted_eq, movePeer_bus])
  | solicit =>
    exact demands_handedOver (s := { s with peers := s.peers.set n.sender (solicitedPeer n s.params s.peers[n.sender]) })
      _ free rfl
  | leave => exact demands_handedOver _ free (by rw [bump_bus, leaveAccepted, movePeer_bus])

theorem clash_handedOver : HandedOver s (clash s) := by
  have muted {t : State} (cut : t.bus = cutQueue s.bus) : HandedOver s t :=
    .inr ⟨by rw [cut, cutQueue, ← free], .inr (by rw [cut, cutQueue])⟩
  unfold clash
  split
  · exact muted (by rw [search_bus, raiseEvents_bus]; rfl)
  · exact muted (by rw [search_bus, raiseEvents_bus])
  · split_ifs
    · exact .inl rfl
    · exact muted (by rw [search_bus, raiseEvents_bus])
  · exact .of_eq rfl
  · exact .of_eq rfl
  · exact .of_eq rfl

theorem checkNotice_handedOver (n : Notice) : HandedOver s (checkNotice n s) := by
  unfold checkNotice
  split_ifs
  · exact .of_eq rfl
  · exact clash_handedOver free
  · exact .of_eq rfl
  · exact .of_eq rfl
  · exact acceptNotice_handedOver free n

theorem handOver_handedOver (h : Option Handed) : HandedOver s (handOver h s) := by
  unfold handOver
  split
  · exact .of_eq rfl
  · unfold handOn
    split
    · exact .of_eq rfl
    · exact .of_eq rfl
    · split
      · exact checkNotice_handedOver free _
      · exact .of_eq rfl

end HandedOn

/-! ### The line at rest, and the cells before it -/

/-- The line is IDLE from its start, with no attempt on (R54, R56, R61). -/
def AtRest (b : Bus) : Prop :=
  b.recovery = .seek ∧ b.missed = 0 ∧ b.line = .idle ∧ b.idleCount = 0 ∧ b.inFlight = none

theorem atRest_reset : AtRest Bus.reset := ⟨rfl, rfl, rfl, rfl, rfl⟩

/-- The missed-cell count after a cell that leaves the recovery in TRACK (R56). -/
def missedAfter (c : LineCell) : Nat := if c.boundary.isNone then 1 else 0

/-- The recovery is in TRACK with no attempt on. -/
def FreeTrack (missed : Nat) (b : Bus) : Prop := b.recovery = .track ∧ b.inFlight = none ∧ b.missed = missed

theorem HandedOver.atRest {s t : State} (handed : HandedOver s t) (rest : AtRest s.bus) : AtRest t.bus := by
  rcases handed with reset | ⟨kept, -⟩
  · rw [reset]
    exact atRest_reset
  · rw [kept]
    exact rest

theorem HandedOver.freeTrack {s t : State} {missed : Nat} (handed : HandedOver s t) (free : FreeTrack missed s.bus) :
    AtRest t.bus ∨ FreeTrack missed t.bus := by
  rcases handed with reset | ⟨kept, -⟩
  · rw [reset]
    exact .inl atRest_reset
  · rw [kept]
    exact .inr free

theorem receivedCell_leaves (c : LineCell) {s : State} {missed : Nat} (free : FreeTrack missed s.bus) :
    AtRest (receivedCell c s).bus ∨ FreeTrack (missedAfter c) (receivedCell c s).bus := by
  obtain ⟨track, none, -⟩ := free
  unfold receivedCell
  split_ifs
  · exact .inl ((handOver_handedOver (s := { s with bus := lineGoesIdle s.bus }) none _).atRest ⟨rfl, rfl, rfl, rfl, none⟩)
  · exact (handOver_handedOver (s := { s with bus := trackCell s.bus c }) none _).freeTrack ⟨track, none, rfl⟩

/-! ### A collision (R64, R65) -/

theorem disposeOf_bus (f : InFlight) (v : State) :
    ((disposeOf f v).bus = Bus.reset ∧ receiveOn (disposeOf f v).control.station = false) ∨
    (disposeOf f v).bus = { v.bus with queue := (disposeOf f v).bus.queue } := by
  unfold disposeOf giveUp
  split_ifs
  · exact .inl ⟨rfl, rfl⟩
  · exact .inr rfl
  · exact .inr rfl
  · exact .inr rfl

theorem trackCell_frame (b : Bus) (c : LineCell) :
    trackCell b c = { b with
      boundary := (trackCell b c).boundary, missed := missedAfter c
      receiver := (trackCell b c).receiver } := rfl

theorem heardAttempt_track {f : InFlight} {agreed : List Int} {heard : LineCell} {b : Bus} (track : b.recovery = .track) :
    heardAttempt f agreed heard b = trackCell (hearEcho f (agreed.map some) b) heard := if_pos track

/-- What a collision leaves of the bus, with the recovery in TRACK. -/
theorem collide_leaves {f : InFlight} {agreed : List Int} {heard : LineCell} {s : State}
    (track : s.bus.recovery = .track) :
    AtRest (collide f agreed heard s).bus ∨
    FreeTrack (missedAfter heard) (collide f agreed heard s).bus := by
  obtain ⟨v, hv⟩ : ∃ v, v = abortAttempt f { s with bus := heardAttempt f agreed heard s.bus } := ⟨_, rfl⟩
  have free : FreeTrack (missedAfter heard) v.bus := by
    rw [hv, heardAttempt_track track, hearEcho_frame]
    exact ⟨track, rfl, rfl⟩
  unfold collide handAfterAbort
  rw [← hv]
  rcases disposeOf_bus f v with ⟨reset, off⟩ | kept
  · rw [off, if_neg (by decide), reset]
    exact .inl atRest_reset
  · have still : FreeTrack (missedAfter heard) (disposeOf f v).bus := by
      rw [kept]
      exact free
    split_ifs
    · exact (handOver_handedOver still.2.1 _).freeTrack still
    · exact .inr still

/-! ### Cells that LINE_IDLE tells -/

/-- A cell is told in its place: in an attempt, the place is one of the attempt's. -/
def InPlace (place : Nat) (b : Bus) : Prop :=
  AtRest b ∨ (b.recovery = .track ∧ ∀ f, b.inFlight = some f → place < (sentCells f).length)

theorem inPlace_of_left {place missed : Nat} {b : Bus} (left : AtRest b ∨ FreeTrack missed b) : InPlace place b :=
  left.imp_right fun ⟨track, idle, _⟩ => ⟨track, fun f flies => absurd (idle.symm.trans flies) (by simp)⟩

theorem hearCell_atRest {place : Nat} {c : LineCell} {s : State} (rest : AtRest s.bus) : hearCell place c s = s := by
  rw [hearCell, if_neg (by rw [rest.1]; decide)]

theorem hearCell_free {place missed : Nat} {c : LineCell} {s : State} (free : FreeTrack missed s.bus) :
    hearCell place c s = receivedCell c s := by
  obtain ⟨track, none, -⟩ := free
  rw [hearCell, if_pos track, none]

theorem hearCell_echo {place : Nat} {c : LineCell} {s : State} {f : InFlight} (track : s.bus.recovery = .track)
    (flies : s.bus.inFlight = some f) : hearCell place c s = echoCell f place c s := by
  rw [hearCell, if_pos track, flies]

theorem endAttempt_leaves {f : InFlight} {s : State} (track : s.bus.recovery = .track) :
    AtRest (endAttempt f s).bus ∨ FreeTrack s.bus.missed (endAttempt f s).bus := by
  unfold endAttempt
  split_ifs
  · exact .inl atRest_reset
  · exact .inr ⟨track, rfl, rfl⟩

theorem hearCell_inPlace {place : Nat} (c : LineCell) {s : State} (told : InPlace place s.bus) :
    InPlace (place + 1) (hearCell place c s).bus := by
  rcases told with rest | ⟨track, within⟩
  · rw [hearCell_atRest rest]
    exact .inl rest
  · cases flies : s.bus.inFlight with
    | none =>
      have free : FreeTrack s.bus.missed s.bus := ⟨track, flies, rfl⟩
      rw [hearCell_free free]
      exact inPlace_of_left (receivedCell_leaves c free)
    | some f =>
      have here := within f flies
      rw [hearCell_echo track flies, echoCell, List.getElem?_eq_getElem here]
      dsimp only
      split_ifs with collision last
      · exact inPlace_of_left (collide_leaves track)
      · exact inPlace_of_left (endAttempt_leaves track)
      · refine .inr ⟨track, fun g still => ?_⟩
        obtain rfl : f = g := Option.some.inj (flies.symm.trans still)
        omega

theorem hearCells_inPlace (cells : List LineCell) {place : Nat} {s : State} (told : InPlace place s.bus) :
    InPlace (place + cells.length) (hearCells place cells s).bus := by
  induction cells generalizing place s with
  | nil => exact told
  | cons c cells ih =>
    rw [hearCells, List.length_cons, Nat.add_comm cells.length, ← Nat.add_assoc]
    exact ih (hearCell_inPlace c told)

theorem isCollision_missed (recovery : Recovery) (sent : Bool) : isCollision recovery sent missedCell = true := by
  cases recovery <;> cases sent <;> rfl

/-- The first missed cell ends an attempt, and leaves one missed cell where it leaves the recovery in TRACK. -/
theorem hearCell_missed {place : Nat} {s : State} (told : InPlace place s.bus) :
    AtRest (hearCell place missedCell s).bus ∨ FreeTrack 1 (hearCell place missedCell s).bus := by
  rcases told with rest | ⟨track, within⟩
  · rw [hearCell_atRest rest]
    exact .inl rest
  · cases flies : s.bus.inFlight with
    | none =>
      have free : FreeTrack s.bus.missed s.bus := ⟨track, flies, rfl⟩
      rw [hearCell_free free]
      exact receivedCell_leaves missedCell free
    | some f =>
      rw [hearCell_echo track flies, echoCell, List.getElem?_eq_getElem (within f flies)]
      dsimp only
      rw [if_pos (isCollision_missed _ _)]
      exact collide_leaves track

theorem secondMissed_eq_true {b : Bus} (one : 1 ≤ b.missed) : secondMissed b missedCell = true := by
  rw [secondMissed, decide_eq_true one]
  rfl

/-- The second missed cell in a row makes the line IDLE. -/
theorem hearCell_missed_again {place : Nat} {s : State} (left : AtRest s.bus ∨ FreeTrack 1 s.bus) :
    AtRest (hearCell place missedCell s).bus := by
  rcases left with rest | free
  · rwa [hearCell_atRest rest]
  · rw [hearCell_free free, receivedCell, if_pos (secondMissed_eq_true (Nat.le_of_eq free.2.2.symm))]
    exact (handOver_handedOver (s := { s with bus := lineGoesIdle s.bus }) free.2.1 _).atRest
      ⟨rfl, rfl, rfl, rfl, free.2.1⟩

/-! ### LINE_IDLE after an attempt has ended -/

/-- With no attempt on, cells are heard whatever their place. -/
theorem hearCells_place (cells : List LineCell) {s : State} {missed : Nat}
    (left : AtRest s.bus ∨ FreeTrack missed s.bus) (place other : Nat) :
    hearCells place cells s = hearCells other cells s := by
  induction cells generalizing s missed place other with
  | nil => rfl
  | cons c cells ih =>
    rw [hearCells, hearCells]
    rcases left with rest | free
    · rw [hearCell_atRest rest, hearCell_atRest rest]
      exact ih (missed := missed) (.inl rest) _ _
    · rw [hearCell_free free, hearCell_free free]
      exact ih (receivedCell_leaves c free) _ _

/-- LINE_IDLE after an attempt has ended: its cells are those that follow, whatever their place. -/
theorem exec_lineIdle_left {t : State} {missed : Nat} (ok : TracksOn t) (left : AtRest t.bus ∨ FreeTrack missed t.bus)
    (cells : List LineCell) (place : Nat) :
    exec (.lineIdle cells) t = .next (hearCells place (cells ++ [missedCell, missedCell]) t) := by
  rw [exec, execLineIdle]
  split_ifs with on
  · rw [hearCells_place _ left 0 place]
  · rcases left with rest | free
    · rw [hearCells_seek rest.1]
    · exact absurd (ok free.1) on

/-- After a missed cell of an attempt one more makes the line IDLE. -/
theorem exec_lineIdle_missed {t : State} (ok : TracksOn t) (left : AtRest t.bus ∨ FreeTrack 1 t.bus) (place : Nat) :
    exec (.lineIdle []) t = .next (hearCells place [missedCell] t) := by
  have rest := hearCell_missed_again (place := place) left
  rw [exec_lineIdle_left ok left [] place]
  show Host.Outcome.next (hearCell (place + 1) missedCell (hearCell place missedCell t)) = _
  rw [hearCell_atRest rest]
  rfl

end Sys2Proof.Machine
end

section
/-! The end of a busy time that no further cell was told of (R56, R58, R59, R61). -/

namespace Sys2Proof.Machine

/-! ### A missed cell at the frame receiver -/

theorem nextMatched_missed (run matched : Nat) : nextMatched run matched none ≠ delimiterTail.length := by
  rw [nextMatched]
  split_ifs with zero ones tail
  · exact absurd ones.1 (by simp)
  · decide
  · intro six
    have five : matched = 5 := Nat.succ.inj six
    rw [five] at tail
    exact absurd tail (by decide)
  · decide

section Missed
variable {r : Receiver}

theorem receiveCell_missed_hunt (hunt : r.phase = .hunt) :
    (receiveCell r none).1.phase = .hunt ∧ (receiveCell r none).2 = none := by
  rw [receiveCell, hunt]
  refine ⟨?_, rfl⟩
  show (huntCell r none).phase = .hunt
  rw [huntCell, if_neg (nextMatched_missed _ _)]
  exact hunt

theorem receiveCell_spent (spent : r.phase = .spent) (value : Option Bool) : receiveCell r value = (r, none) := by
  rw [receiveCell, spent]

/-- A missed cell within a byte keeps its place with the value 1 (R59). -/
theorem receiveCell_missed_within (frame : r.phase = .frame) (within : r.bits.length < 7) :
    (receiveCell r none).1.phase = .frame ∧ (receiveCell r none).2 = none := by
  rw [receiveCell, frame]
  show (frameCell r none).1.phase = .frame ∧ (frameCell r none).2 = none
  rw [frameCell, if_pos (by omega)]
  exact ⟨frame, rfl⟩

/-- The bytes that are complete once a missed cell has completed the last of them. -/
def missedBytes (r : Receiver) : List Byte := r.bytes ++ [byteOfBits (r.bits ++ [true])]

theorem receiveCell_missed_byte (frame : r.phase = .frame) (last : 7 ≤ r.bits.length) :
    receiveCell r none = frameByte r (missedBytes r) true := by
  rw [receiveCell, frame]
  show frameCell r none = _
  rw [frameCell, if_neg (by omega), Option.isNone_none, Bool.or_true]
  rfl

theorem length_missedBytes : (missedBytes r).length = r.bytes.length + 1 := List.length_append

/-- A byte that goes on with the frame. -/
theorem receiveCell_missed_goesOn (frame : r.phase = .frame) (last : 7 ≤ r.bits.length) {n : Nat}
    (declared : declaredLength ((missedBytes r).headD 0) = some n) (more : n ≠ r.bytes.length + 1) :
    (receiveCell r none).1.phase = .frame ∧ (receiveCell r none).2 = none := by
  rw [receiveCell_missed_byte frame last, frameByte, declared]
  dsimp only
  rw [length_missedBytes, if_neg (Ne.symm more)]
  exact ⟨frame, rfl⟩

/-- A byte that ends the frame: it names no kind, or it is the last that the first byte declares. -/
theorem receiveCell_missed_ends (frame : r.phase = .frame) (last : 7 ≤ r.bits.length)
    (ends : declaredLength ((missedBytes r).headD 0) = none ∨
      declaredLength ((missedBytes r).headD 0) = some (r.bytes.length + 1)) :
    (receiveCell r none).1.phase = .spent ∧ (receiveCell r none).2 = some .codeViolation := by
  rw [receiveCell_missed_byte frame last, frameByte]
  rcases ends with unnamed | whole
  · rw [unnamed]
    exact ⟨rfl, rfl⟩
  · rw [whole]
    dsimp only
    rw [length_missedBytes, if_pos rfl]
    exact ⟨rfl, rfl⟩

theorem lineIdleHands_frame (frame : r.phase = .frame) : lineIdleHands r = some .truncated := if_pos frame

theorem lineIdleHands_other (other : r.phase ≠ .frame) : lineIdleHands r = none := if_neg other

end Missed

/-! ### The two missed cells after which the line is IDLE -/

/-- What the receiver hands on at the end of a busy time that no further cell was told of, and the bus that is left. -/
def BusyTimeEnds (s : State) (h : Option Handed) (b : Bus) : Prop :=
  exec (.lineIdle []) s = .next (handOver h { s with bus := b }) ∧
  b = { s.bus with
    recovery := .seek, boundary := b.boundary, missed := 0, receiver := b.receiver, line := .idle, idleCount := 0
    backoff := s.bus.backoff.map fun owed => { owed with waiting := true } }

section EndOfBusyTime
variable {s : State} (on : receiveOn s.control.station = true) (track : s.bus.recovery = .track)
  (free : s.bus.inFlight = none)
include on track free

theorem exec_lineIdle_nil :
    exec (.lineIdle []) s = .next (hearCell 1 missedCell (receivedCell missedCell s)) := by
  rw [exec, execLineIdle, if_pos on, ← hearCell_free (place := 0) ⟨track, free, rfl⟩]
  rfl

theorem busyTimeEnds_atOnce (missed : 1 ≤ s.bus.missed) : ∃ b, BusyTimeEnds s (lineIdleHands s.bus.receiver) b := by
  refine ⟨lineGoesIdle s.bus, ?_, rfl⟩
  have first : receivedCell missedCell s =
      handOver (lineIdleHands s.bus.receiver) { s with bus := lineGoesIdle s.bus } :=
    if_pos (secondMissed_eq_true missed)
  have rest := (handOver_handedOver (s := { s with bus := lineGoesIdle s.bus }) free
    (lineIdleHands s.bus.receiver)).atRest ⟨rfl, rfl, rfl, rfl, free⟩
  rw [exec_lineIdle_nil on track free, first, hearCell_atRest rest]

/-- The first of the missed cells is one of the frame's: it leaves what it hands on, then the line is IDLE. -/
theorem busyTimeEnds_after (missed : s.bus.missed = 0) {h after : Option Handed}
    (handed : (receiveCell s.bus.receiver none).2 = h) (left : lineIdleHands (receiveCell s.bus.receiver none).1 = after)
    (one : (h = none) ∨ (h = some .codeViolation ∧ after = none)) :
    ∃ b, BusyTimeEnds s (h.or after) b := by
  refine ⟨lineGoesIdle (trackCell s.bus missedCell), ?_, rfl⟩
  have notSecond : secondMissed s.bus missedCell = false := by rw [secondMissed, missed]; rfl
  have first : receivedCell missedCell s = handOver h { s with bus := trackCell s.bus missedCell } := by
    rw [receivedCell, notSecond, if_neg (by decide), ← handed]
    rfl
  have second {t : State} (bus : t.bus = trackCell s.bus missedCell) :
      hearCell 1 missedCell t = handOver after { t with bus := lineGoesIdle (trackCell s.bus missedCell) } := by
    have idle : FreeTrack 1 t.bus := by
      rw [bus]
      exact ⟨track, free, rfl⟩
    rw [hearCell_free idle, receivedCell, if_pos (secondMissed_eq_true (Nat.le_of_eq idle.2.2.symm)), bus, ← left]
    rfl
  rw [exec_lineIdle_nil on track free, first]
  rcases one with rfl | ⟨rfl, rfl⟩
  · rw [handOver, second rfl, Option.none_or]
  · rw [second rfl, Option.or_none]
    rfl

theorem busyTimeEnds_noFrame (phase : s.bus.receiver.phase = .hunt ∨ s.bus.receiver.phase = .spent) :
    ∃ b, BusyTimeEnds s none b := by
  have other : s.bus.receiver.phase ≠ .frame := by rcases phase with p | p <;> rw [p] <;> decide
  rcases Nat.eq_zero_or_pos s.bus.missed with zero | missed
  · have same : (receiveCell s.bus.receiver none).1.phase ≠ .frame ∧ (receiveCell s.bus.receiver none).2 = none := by
      rcases phase with hunt | spent
      · obtain ⟨stays, nothing⟩ := receiveCell_missed_hunt hunt
        exact ⟨by rw [stays]; decide, nothing⟩
      · rw [receiveCell_spent spent]
        exact ⟨other, rfl⟩
    exact busyTimeEnds_after on track free zero same.2 (lineIdleHands_other same.1) (.inl rfl)
  · have ends := busyTimeEnds_atOnce on track free missed
    rwa [lineIdleHands_other other] at ends

theorem busyTimeEnds_truncated (frame : s.bus.receiver.phase = .frame)
    (cut : s.bus.receiver.bits.length < 7 ∨ 1 ≤ s.bus.missed ∨
      ∃ n, declaredLength ((missedBytes s.bus.receiver).headD 0) = some n ∧ n ≠ s.bus.receiver.bytes.length + 1) :
    ∃ b, BusyTimeEnds s (some .truncated) b := by
  rcases Nat.eq_zero_or_pos s.bus.missed with zero | missed
  · have goesOn : (receiveCell s.bus.receiver none).1.phase = .frame ∧ (receiveCell s.bus.receiver none).2 = none := by
      rcases Nat.lt_or_ge s.bus.receiver.bits.length 7 with within | last
      · exact receiveCell_missed_within frame within
      · rcases cut with within | missed | ⟨n, declared, more⟩
        · omega
        · omega
        · exact receiveCell_missed_goesOn frame last declared more
    exact busyTimeEnds_after on track free zero goesOn.2 (lineIdleHands_frame goesOn.1) (.inl rfl)
  · have ends := busyTimeEnds_atOnce on track free missed
    rwa [lineIdleHands_frame frame] at ends

theorem busyTimeEnds_violated (frame : s.bus.receiver.phase = .frame) (last : 7 ≤ s.bus.receiver.bits.length)
    (zero : s.bus.missed = 0)
    (ends : declaredLength ((missedBytes s.bus.receiver).headD 0) = none ∨
      declaredLength ((missedBytes s.bus.receiver).headD 0) = some (s.bus.receiver.bytes.length + 1)) :
    ∃ b, BusyTimeEnds s (some .codeViolation) b := by
  obtain ⟨spent, handed⟩ := receiveCell_missed_ends frame last ends
  exact busyTimeEnds_after on track free zero handed (lineIdleHands_other (by rw [spent]; decide)) (.inr ⟨rfl, rfl⟩)

/-- Each busy time ends in one of the three ways. -/
theorem busyTimeEnds_cases :
    ∃ h b, BusyTimeEnds s h b ∧ (h = none ∨ h = some .truncated ∨ h = some .codeViolation) := by
  have given {h : Option Handed} (ends : ∃ b, BusyTimeEnds s h b)
      (one : h = none ∨ h = some .truncated ∨ h = some .codeViolation) :
      ∃ h b, BusyTimeEnds s h b ∧ (h = none ∨ h = some .truncated ∨ h = some .codeViolation) :=
    ⟨h, ends.choose, ends.choose_spec, one⟩
  cases phase : s.bus.receiver.phase with
  | hunt => exact given (busyTimeEnds_noFrame on track free (.inl phase)) (.inl rfl)
  | spent => exact given (busyTimeEnds_noFrame on track free (.inr phase)) (.inl rfl)
  | frame =>
    by_cases violated : 7 ≤ s.bus.receiver.bits.length ∧ s.bus.missed = 0 ∧
        (declaredLength ((missedBytes s.bus.receiver).headD 0) = none ∨
          declaredLength ((missedBytes s.bus.receiver).headD 0) = some (s.bus.receiver.bytes.length + 1))
    · obtain ⟨last, zero, ends⟩ := violated
      exact given (busyTimeEnds_violated on track free phase last zero ends) (.inr (.inr rfl))
    · refine given (busyTimeEnds_truncated on track free phase ?_) (.inr (.inl rfl))
      by_contra other
      simp only [not_or, not_lt, not_exists, not_and, not_not] at other
      obtain ⟨last, few, declared⟩ := other
      refine violated ⟨last, by omega, ?_⟩
      cases names : declaredLength ((missedBytes s.bus.receiver).headD 0) with
      | none => exact .inl rfl
      | some n => exact .inr (congrArg some (declared n names))

end EndOfBusyTime

theorem BusyTimeEnds.unique {s t : State} {h : Option Handed} {b : Bus} (ends : BusyTimeEnds s h b)
    (taken : exec (.lineIdle []) s = .next t) : t = handOver h { s with bus := b } :=
  Host.Outcome.next.inj (taken.symm.trans ends.1)

theorem execCollision_missed {s : State} {f : InFlight} (flies : s.bus.inFlight = some f) :
    exec (.collision [] missedCell) s = .next (collide f [] missedCell s) := by
  have first : (sentCells f)[([] : List Int).length]? = some true := rfl
  rw [exec, execCollision, flies]
  dsimp only
  rw [first]
  dsimp only
  rw [if_pos (isCollision_missed _ _)]

theorem tracksOn_collide {f : InFlight} {agreed : List Int} {heard : LineCell} {s : State} (ok : TracksOn s)
    (flies : s.bus.inFlight = some f) : TracksOn (collide f agreed heard s) :=
  (collide_happens flies agreed heard).keeps Event.keeps_tracksOn ok

/-- Settles O29. -/
theorem secondMissedCellMakesLineIdle : Obligations.SecondMissedCellMakesLineIdle := by
  refine ⟨fun s cells on track => ?_, fun s f on track flies => ?_, fun s on track free => ?_⟩
  · have told : InPlace 0 s.bus := .inr ⟨track, fun f _ => Nat.succ_pos _⟩
    have first := hearCell_missed (hearCells_inPlace cells told)
    have rest := hearCell_missed_again (place := 0 + cells.length + 1) first
    refine ⟨_, by rw [exec, execLineIdle, if_pos on], ?_⟩
    rw [hearCells_append]
    exact rest
  · refine ⟨_, execCollision_missed flies, ?_⟩
    have left : AtRest (collide f [] missedCell s).bus ∨ FreeTrack 1 (collide f [] missedCell s).bus :=
      collide_leaves track
    have first : (sentCells f)[0]? = some true := rfl
    rw [exec_lineIdle_missed (tracksOn_collide (fun _ => on) flies) left 1, exec, execLineIdle, if_pos on]
    show Host.Outcome.next (hearCells 1 [missedCell] (hearCell 0 missedCell s)) = _
    rw [hearCell_echo track flies, echoCell, first]
    dsimp only
    rw [if_pos (isCollision_missed _ _)]
  · obtain ⟨h, b, ends, one⟩ := busyTimeEnds_cases on track free
    refine ⟨_, ends.1, fun hunt => ?_, fun spent => ?_, fun frame cut => ?_, fun frame last zero whole => ?_, ?_, ?_⟩
    · obtain ⟨b', quiet⟩ := busyTimeEnds_noFrame on track free (.inl hunt)
      rw [quiet.unique ends.1]
      rfl
    · obtain ⟨b', quiet⟩ := busyTimeEnds_noFrame on track free (.inr spent)
      rw [quiet.unique ends.1]
      rfl
    · obtain ⟨b', truncated⟩ := busyTimeEnds_truncated on track free frame cut
      rw [truncated.unique ends.1]
      exact ⟨counterOf_bump_same _ { s with bus := b' }, CountersBut.bump .truncations { s with bus := b' }⟩
    · obtain ⟨b', violated⟩ := busyTimeEnds_violated on track free frame last zero whole
      rw [violated.unique ends.1]
      exact ⟨counterOf_bump_same _ { s with bus := b' }, CountersBut.bump .codeViolations { s with bus := b' }⟩
    · rcases one with rfl | rfl | rfl
      · rfl
      · rfl
      · rfl
    · rcases one with rfl | rfl | rfl
      · exact ends.2
      · exact ends.2
      · exact ends.2

end Sys2Proof.Machine
end

section
/-! The collision that aborts an attempt (R64 to R66, R72). -/

namespace Sys2Proof.Machine

/-! ### A collision that LINE_IDLE tells -/

theorem isCollision_iff {recovery : Recovery} {sent : Bool} {heard : LineCell} :
    isCollision recovery sent heard = true ↔ recovery = .seek ∨ cellValue heard ≠ some sent := by
  rw [isCollision, Bool.or_eq_true, beq_iff_eq, bne_iff_ne]

theorem exec_collision {s : State} {f : InFlight} {agreed : List Int} {sent : Bool} {heard : LineCell}
    (flies : s.bus.inFlight = some f) (here : (frameCells f.frame)[agreed.length]? = some sent)
    (collides : s.bus.recovery = .seek ∨ cellValue heard ≠ some sent) :
    exec (.collision agreed heard) s = .next (collide f agreed heard s) := by
  have place : (sentCells f)[agreed.length]? = some sent := here
  rw [exec, execCollision, flies]
  dsimp only
  rw [place]
  dsimp only
  rw [if_pos (isCollision_iff.mpr collides)]

/-- Cells that were heard as sent have a boundary transition each. -/
theorem boundaries_of_heardAsSent {f : InFlight} {cells : List LineCell} (heard : HeardAsSent f cells) :
    (cells.map fun c => c.boundary.getD 0).map some = cells.map LineCell.boundary := by
  rw [List.map_map]
  refine List.map_congr_left fun c member => ?_
  have value : cellValue c ∈ ((frameCells f.frame).take cells.length).map some := by
    rw [← show _ = _ from heard]
    exact List.mem_map_of_mem member
  obtain ⟨sent, -, same⟩ := List.mem_map.mp value
  obtain ⟨offset, boundary, -⟩ := Option.map_eq_some_iff.mp same.symm
  show some (c.boundary.getD 0) = c.boundary
  rw [boundary]
  rfl

/-- The state after the cells of an attempt that were heard as sent (R55, R60, R64). -/
def afterAgreed (f : InFlight) (cells : List LineCell) (s : State) : State :=
  { s with bus := hearEcho f (cells.map LineCell.boundary) s.bus }

theorem hearCells_heardAsSent {f : InFlight} {cells : List LineCell} {s : State} (flies : s.bus.inFlight = some f)
    (track : s.bus.recovery = .track) (heard : HeardAsSent f cells) (short : cells.length < (frameCells f.frame).length) :
    hearCells 0 cells s = afterAgreed f cells s := by
  have within : 0 + cells.length < (sentCells f).length := by rw [Nat.zero_add]; exact short
  rw [hearCells_agreed cells flies track within heard, show cells.map cellValue = _ from heard, afterAgreed, hearEcho,
    if_pos track, agreedReceiver, List.length_map]
  rfl

theorem timeCells_nil (b : Bus) : timeCells [] b = b := by
  unfold timeCells
  split <;> rfl

/-- The collided cell after cells that agreed, told by LINE_IDLE or by COLLISION, is one collision (R64). -/
theorem collide_afterAgreed {f : InFlight} {cells : List LineCell} {s : State} (track : s.bus.recovery = .track)
    (heard : HeardAsSent f cells) (collided : LineCell) :
    collide f [] collided (afterAgreed f cells s) = collide f (cells.map fun c => c.boundary.getD 0) collided s := by
  have still : (hearEcho f (cells.map LineCell.boundary) s.bus).recovery = .track := by
    rw [hearEcho_frame]
    exact track
  have receiver : agreedReceiver f 0 (hearEcho f (cells.map LineCell.boundary) s.bus) =
      agreedReceiver f cells.length s.bus := by
    rw [hearEcho, if_pos track, List.length_map]
    rfl
  have echo : hearEcho f [] (hearEcho f (cells.map LineCell.boundary) s.bus) =
      hearEcho f (cells.map LineCell.boundary) s.bus := by
    conv_lhs => rw [hearEcho, if_pos still, timeCells_nil, List.length_nil, receiver]
    rw [hearEcho, if_pos track, List.length_map]
  have frames : collidedFrame f 0 collided (hearEcho f (cells.map LineCell.boundary) s.bus) =
      collidedFrame f cells.length collided s.bus := by
    rw [collidedFrame, collidedFrame, if_pos still, if_pos track, receiver]
  have bus : heardAttempt f [] collided (hearEcho f (cells.map LineCell.boundary) s.bus) =
      heardAttempt f (cells.map fun c => c.boundary.getD 0) collided s.bus := by
    rw [heardAttempt_track still, heardAttempt_track track, boundaries_of_heardAsSent heard, List.map_nil, echo]
  rw [collide, collide, List.length_map, afterAgreed, List.length_nil, frames, bus]

/-- LINE_IDLE tells a collision and what follows it. -/
theorem exec_lineIdle_collides {s : State} {f : InFlight} {cells : List LineCell} {sent : Bool} {heard : LineCell}
    (on : receiveOn s.control.station = true) (track : s.bus.recovery = .track) (flies : s.bus.inFlight = some f)
    (asSent : HeardAsSent f cells) (here : (frameCells f.frame)[cells.length]? = some sent)
    (differs : cellValue heard ≠ some sent) (rest : List LineCell) {all : List LineCell}
    (told : all ++ [missedCell, missedCell] = cells ++ heard :: rest) :
    exec (.lineIdle all) s =
      .next (hearCells (cells.length + 1) rest (collide f (cells.map fun c => c.boundary.getD 0) heard s)) := by
  obtain ⟨short, -⟩ := List.getElem?_eq_some_iff.mp here
  have still : (afterAgreed f cells s).bus.recovery = .track := by
    rw [afterAgreed, hearEcho_frame]
    exact track
  have flying : (afterAgreed f cells s).bus.inFlight = some f := by
    rw [afterAgreed, hearEcho_frame]
    exact flies
  have place : (sentCells f)[0 + cells.length]? = some sent := by rw [Nat.zero_add]; exact here
  rw [exec, execLineIdle, if_pos on, told, hearCells_append, hearCells_heardAsSent flies track asSent short, hearCells,
    hearCell_echo still flying, echoCell, place]
  dsimp only
  rw [if_pos (isCollision_iff.mpr (.inr differs)), collide_afterAgreed track asSent, Nat.zero_add]

/-! ### The abort (R65) -/

section Abort
variable (f : InFlight) (agreed : List Int) (heard : LineCell) (b : Bus)

theorem heardAttempt_frame :
    heardAttempt f agreed heard b = { b with
      boundary := (heardAttempt f agreed heard b).boundary, missed := (heardAttempt f agreed heard b).missed
      receiver := (heardAttempt f agreed heard b).receiver } := by
  unfold heardAttempt
  split_ifs
  · rw [trackCell_frame, hearEcho_frame]
  · rfl

theorem timeCells_concat {b : Bus} (track : b.recovery = .track) (times : List (Option Int)) (last : Option Int) :
    timeCells (times ++ [last]) b = timeCell (timeCells times b) last := by
  rw [timeCells, timeCells, if_pos track, if_pos track, List.foldl_append]
  rfl

theorem Timed.congr {times : List (Option Int)} {before after after' : Bus} (timed : Timed times before after)
    (boundary : after'.boundary = after.boundary) (missed : after'.missed = after.missed) :
    Timed times before after' := by
  unfold Timed at timed ⊢
  rwa [boundary, missed]

theorem heardAttempt_timed : Timed (agreed.map some ++ [heard.boundary]) b (heardAttempt f agreed heard b) := by
  cases recovery : b.recovery with
  | seek =>
    have same : heardAttempt f agreed heard b = b := if_neg (by rw [recovery]; decide)
    rw [same]
    exact ⟨fun track => absurd (recovery.symm.trans track) (by decide), fun _ => ⟨rfl, rfl⟩⟩
  | track =>
    have timed := timeCells_timed (agreed.map some ++ [heard.boundary]) b
    rw [timeCells_concat recovery] at timed
    rw [heardAttempt_track recovery, hearEcho, if_pos recovery]
    exact timed.congr rfl rfl

end Abort

/-- The state after an abort, before the notice is disposed of (R65, steps 1 to 3). -/
def aborted (f : InFlight) (agreed : List Int) (heard : LineCell) (s : State) : State :=
  abortAttempt f { s with bus := heardAttempt f agreed heard s.bus }

section Aborted
variable (f : InFlight) (agreed : List Int) (heard : LineCell) (s : State)

theorem aborted_bus :
    (aborted f agreed heard s).bus = { s.bus with
      driver := .released, inFlight := none, boundary := (aborted f agreed heard s).bus.boundary
      missed := (aborted f agreed heard s).bus.missed, receiver := (aborted f agreed heard s).bus.receiver
      backoff := some { slots := (s.control.number.val + (f.entry.attempts + 1)) % 16 + 1, waiting := false } } := by
  have bus : (aborted f agreed heard s).bus = { heardAttempt f agreed heard s.bus with
      driver := .released, inFlight := none, backoff := some (abortBackoff s.control.number (f.entry.attempts + 1)) } := rfl
  rw [bus, heardAttempt_frame]
  rfl

theorem aborted_counts :
    counterOf .collisionAborts (aborted f agreed heard s) = saturatingHalf (counterOf .collisionAborts s) ∧
    CountersBut [.collisionAborts] s (aborted f agreed heard s) :=
  ⟨counterOf_bump_same .collisionAborts
      { s with bus := (aborted f agreed heard s).bus },
    CountersBut.bump .collisionAborts { s with bus := (aborted f agreed heard s).bus }⟩

theorem aborted_timed : Timed (agreed.map some ++ [heard.boundary]) s.bus (aborted f agreed heard s).bus :=
  (heardAttempt_timed f agreed heard s.bus).congr rfl rfl

theorem collide_eq :
    collide f agreed heard s =
      handAfterAbort (collidedFrame f agreed.length heard s.bus) (disposeOf f (aborted f agreed heard s)) := rfl

/-- A collision at which no frame ends. -/
theorem collide_alone (nothing : collidedFrame f agreed.length heard s.bus = none) :
    collide f agreed heard s = disposeOf f (aborted f agreed heard s) := by
  rw [collide_eq, nothing, handAfterAbort]
  split <;> rfl

/-- The giving up of a LEAVE with a restart pending resets, whatever frame ends there (R14, R66). -/
theorem collide_resets (eighth : 8 ≤ f.entry.attempts + 1) (leave : f.entry.kind = .leave)
    (pending : s.control.restartPending = true) :
    ∃ u, collide f agreed heard s = restartReset u ∧ u.pending = s.pending ∧ u.pins = s.pins ∧ u.lookup = s.lookup ∧
      u.spi = s.spi := by
  refine ⟨raiseEvents [raiseOf .busGiveUp] (bump .giveUps (aborted f agreed heard s)), ?_, rfl, rfl, rfl, rfl⟩
  have gives : disposeOf f (aborted f agreed heard s) = giveUp f (aborted f agreed heard s) := if_pos eighth
  have resets : giveUp f (aborted f agreed heard s) =
      restartReset (raiseEvents [raiseOf .busGiveUp] (bump .giveUps (aborted f agreed heard s))) := if_pos ⟨leave, pending⟩
  rw [collide_eq, gives, resets]
  rfl

/-- A collision releases the line, and the attempt is ended. -/
theorem collide_ends : (collide f agreed heard s).bus.driver = .released ∧ (collide f agreed heard s).bus.inFlight = none := by
  have ended : (disposeOf f (aborted f agreed heard s)).bus.driver = .released ∧
      (disposeOf f (aborted f agreed heard s)).bus.inFlight = none := by
    rcases disposeOf_bus f (aborted f agreed heard s) with ⟨reset, -⟩ | kept
    · rw [reset]
      exact ⟨rfl, rfl⟩
    · rw [kept]
      exact ⟨rfl, rfl⟩
  rw [collide_eq, handAfterAbort]
  split
  · rcases handOver_handedOver ended.2 (collidedFrame f agreed.length heard s.bus) with reset | ⟨kept, driver⟩
    · rw [reset]
      exact ⟨rfl, rfl⟩
    · refine ⟨driver.elim (fun same => same.trans ended.1) id, ?_⟩
      rw [kept]
      exact ended.2
  · exact ended

end Aborted

/-! ### The aborted notice (R65, R66, R72) -/

section Returned
variable {f : InFlight} {queue : List QueueEntry}

theorem returnToQueue_dropped (leave : ∃ e ∈ queue, e.kind = .leave) : returnToQueue f queue = queue := by
  obtain ⟨e, member, kind⟩ := leave
  exact if_pos (List.any_eq_true.mpr ⟨e, member, by rw [kind]; rfl⟩)

theorem returnToQueue_noLeave (none : ∀ e ∈ queue, e.kind ≠ .leave) {others : List QueueEntry}
    (left : (queue.filter fun e => e.kind != f.entry.kind) = others) :
    returnToQueue f queue = others.insertIdx (min f.older others.length) (returnedEntry f queue) := by
  have quiet : (queue.any fun e => e.kind == .leave) = false := List.any_eq_false.mpr fun e member leave =>
    none e member (beq_iff_eq.mp leave)
  rw [returnToQueue, quiet, left]
  rfl

/-- The returned entry keeps its urgency, where no entry of its kind is queued. -/
theorem returnedEntry_alone (none : ∀ e ∈ queue, e.kind ≠ f.entry.kind) :
    returnedEntry f queue = { f.entry with attempts := f.entry.attempts + 1 } := by
  have quiet : (queue.any fun e => e.kind == f.entry.kind && e.urgent) = false := List.any_eq_false.mpr fun e member same =>
    none e member (beq_iff_eq.mp (Bool.and_eq_true_iff.mp same).1)
  rw [returnedEntry, quiet, Bool.or_false]

/-- The returned entry takes the urgency of the one entry of its kind. -/
theorem returnedEntry_merged {older younger : List QueueEntry} {e : QueueEntry} (same : e.kind = f.entry.kind)
    (others : ∀ x ∈ older ++ younger, x.kind ≠ f.entry.kind) :
    returnedEntry f (older ++ e :: younger) =
      { f.entry with attempts := f.entry.attempts + 1, urgent := f.entry.urgent || e.urgent } := by
  have quiet {part : List QueueEntry} (sub : ∀ x ∈ part, x ∈ older ++ younger) :
      (part.any fun e => e.kind == f.entry.kind && e.urgent) = false :=
    List.any_eq_false.mpr fun x member kind => others x (sub x member) (beq_iff_eq.mp (Bool.and_eq_true_iff.mp kind).1)
  rw [returnedEntry, List.any_append, List.any_cons, quiet fun x member => List.mem_append_left _ member,
    quiet fun x member => List.mem_append_right _ member, beq_iff_eq.mpr same, Bool.true_and, Bool.false_or, Bool.or_false]

theorem filter_others {part : List QueueEntry} (others : ∀ x ∈ part, x.kind ≠ f.entry.kind) :
    (part.filter fun e => e.kind != f.entry.kind) = part :=
  List.filter_eq_self.mpr fun x member => bne_iff_ne.mpr (others x member)

theorem filter_merged {older younger : List QueueEntry} {e : QueueEntry} (same : e.kind = f.entry.kind)
    (others : ∀ x ∈ older ++ younger, x.kind ≠ f.entry.kind) :
    ((older ++ e :: younger).filter fun e => e.kind != f.entry.kind) = older ++ younger := by
  rw [List.filter_append, List.filter_cons_of_neg (by simp [same]),
    filter_others fun x member => others x (List.mem_append_left _ member),
    filter_others fun x member => others x (List.mem_append_right _ member)]

/-- The aborted notice returns at its age, among entries of other kinds (R72). -/
theorem returnToQueue_alone (older : f.older ≤ queue.length)
    (others : ∀ e ∈ queue, e.kind ≠ f.entry.kind ∧ e.kind ≠ .leave) :
    returnToQueue f queue = queue.insertIdx f.older { f.entry with attempts := f.entry.attempts + 1 } := by
  rw [returnToQueue_noLeave (fun e member => (others e member).2) (filter_others fun e member => (others e member).1),
    Nat.min_eq_left older, returnedEntry_alone fun e member => (others e member).1]

/-- The aborted notice merges with the entry of its kind, at its age or at the end (R72). -/
theorem returnToQueue_merged {older younger : List QueueEntry} {e : QueueEntry} (speaks : f.entry.kind ≠ .leave)
    (same : e.kind = f.entry.kind) (others : ∀ x ∈ older ++ younger, x.kind ≠ f.entry.kind ∧ x.kind ≠ .leave) :
    returnToQueue f (older ++ e :: younger) =
      (older ++ younger).insertIdx (min f.older (older ++ younger).length)
        { f.entry with attempts := f.entry.attempts + 1, urgent := f.entry.urgent || e.urgent } := by
  have kinds : ∀ x ∈ older ++ younger, x.kind ≠ f.entry.kind := fun x member => (others x member).1
  rw [returnToQueue_noLeave ?_ (filter_merged same kinds), returnedEntry_merged same kinds]
  intro x member
  rcases List.mem_append.mp member with left | right
  · exact (others x (List.mem_append_left _ left)).2
  · rcases List.mem_cons.mp right with rfl | right
    · rw [same]
      exact speaks
    · exact (others x (List.mem_append_right _ right)).2

end Returned

section Disposed
variable {f : InFlight} {v : State}

theorem disposeOf_gives (eighth : 8 ≤ f.entry.attempts + 1)
    (stays : ¬ (f.entry.kind = .leave ∧ v.control.restartPending = true)) :
    disposeOf f v = raiseEvents [raiseOf .busGiveUp] (bump .giveUps v) := by
  have gives : disposeOf f v = giveUp f v := if_pos eighth
  rw [gives, giveUp, if_neg stays]

theorem disposeOf_drops (few : f.entry.attempts + 1 < 8) (final : f.final = true) : disposeOf f v = v := by
  rw [disposeOf, if_neg (show ¬ Config.attemptLimit ≤ _ from Nat.not_le.mpr few), if_pos final]

theorem disposeOf_returns (few : f.entry.attempts + 1 < 8) (kept : f.final = false) :
    disposeOf f v = { v with bus := { v.bus with queue := returnToQueue f v.bus.queue } } := by
  rw [disposeOf, if_neg (show ¬ Config.attemptLimit ≤ _ from Nat.not_le.mpr few), if_neg (by rw [kept]; decide)]

/-- Whatever becomes of the notice, the rest is as the abort left it. -/
theorem disposeOf_frame (stays : f.entry.kind = .leave → v.control.restartPending = true → f.entry.attempts + 1 < 8) :
    disposeOf f v = { v with
      bus := { v.bus with queue := (disposeOf f v).bus.queue }, counters := (disposeOf f v).counters
      events := (disposeOf f v).events } := by
  rcases Nat.lt_or_ge (f.entry.attempts + 1) 8 with few | eighth
  · cases final : f.final with
    | true => rw [disposeOf_drops few final]
    | false => rw [disposeOf_returns few final]
  · rw [disposeOf_gives eighth fun both => absurd (stays both.1 both.2) (Nat.not_lt.mpr eighth)]
    exact raiseEvents_single (raiseOf .busGiveUp) (bump .giveUps v)

end Disposed

/-- Settles O34. -/
theorem collisionAbortsAttempt : Obligations.CollisionAbortsAttempt := by
  refine ⟨fun s f cells on track flies asSent => ⟨fun sent heard rest here differs => ?_, fun short => ?_⟩,
    fun s f agreed sent heard flies here collides => ?_⟩
  · have place : (frameCells f.frame)[(cells.map fun c => c.boundary.getD 0).length]? = some sent := by
      rw [List.length_map]
      exact here
    refine ⟨_, exec_collision flies place (.inr differs), ?_⟩
    rw [exec_lineIdle_collides on track flies asSent here differs (rest ++ [missedCell, missedCell])
        (by rw [List.append_assoc]; rfl),
      exec_lineIdle_left (tracksOn_collide (fun _ => on) flies) (collide_leaves track) rest]
  · obtain ⟨sent, here⟩ : ∃ sent, (frameCells f.frame)[cells.length]? = some sent :=
      ⟨_, List.getElem?_eq_getElem short⟩
    have place : (frameCells f.frame)[(cells.map fun c => c.boundary.getD 0).length]? = some sent := by
      rw [List.length_map]
      exact here
    have differs : cellValue missedCell ≠ some sent := Option.some_ne_none sent |>.symm
    refine ⟨_, exec_collision flies place (.inr differs), ?_⟩
    rw [exec_lineIdle_collides on track flies asSent here differs [missedCell] rfl]
    exact (exec_lineIdle_missed (tracksOn_collide (fun _ => on) flies) (collide_leaves track) _).symm
  · obtain ⟨released, free⟩ := collide_ends f agreed heard s
    refine ⟨_, exec_collision flies here collides, released, free, fun eighth leave pending => ?_,
      fun nothing stays => ?_⟩
    · obtain ⟨u, resets, queued, pins, lookup, spi⟩ := collide_resets f agreed heard s eighth leave pending
      rw [resets]
      exact ⟨spi, restartReset_resets queued pins lookup⟩
    · obtain ⟨v, hv⟩ : ∃ v, v = aborted f agreed heard s := ⟨_, rfl⟩
      have bus := aborted_bus f agreed heard s
      have counts := aborted_counts f agreed heard s
      have timed := aborted_timed f agreed heard s
      have whole : v = { s with bus := v.bus, counters := v.counters } := by rw [hv]; rfl
      rw [collide_alone f agreed heard s nothing, ← hv]
      rw [← hv] at bus counts timed
      have queue : v.bus.queue = s.bus.queue := by rw [bus]
      have control : v.control = s.control := by rw [whole]
      have frame := disposeOf_frame (f := f) (v := v) (by rw [control]; exact stays)
      have keeps (few : f.entry.attempts + 1 < 8) :
          (disposeOf f v).counters = v.counters ∧ (disposeOf f v).events = s.events := by
        cases final : f.final with
        | true =>
          rw [disposeOf_drops few final]
          exact ⟨rfl, by rw [whole]⟩
        | false =>
          rw [disposeOf_returns few final]
          exact ⟨rfl, by rw [whole]⟩
      have gives (eighth : 8 ≤ f.entry.attempts + 1) :
          disposeOf f v = raiseEvents [raiseOf .busGiveUp] (bump .giveUps v) :=
        disposeOf_gives eighth fun ⟨leave, pending⟩ =>
          absurd (stays leave (by rw [← control]; exact pending)) (Nat.not_lt.mpr eighth)
      have others : CountersBut [.giveUps] v (disposeOf f v) := by
        rcases Nat.lt_or_ge (f.entry.attempts + 1) 8 with few | eighth
        · exact .of_eq (keeps few).1
        · rw [gives eighth]
          exact CountersBut.bump .giveUps v
      refine ⟨?_, ?_, counts.2.trans others, fun eighth => ⟨?_, ?_, ?_⟩, fun few => ⟨?_, (keeps few).2⟩,
        fun few final => ?_, fun few kept older alone => ?_, fun few kept report e one same => ?_,
        fun few kept speaks older e younger split same alone within => ?_, fun few kept leave => ?_, ?_, ?_, ?_⟩
      · rw [frame, bus]
      · rw [others .collisionAborts (by decide)]
        exact counts.1
      · rw [gives eighth]
        exact queue
      · rw [gives eighth, ← counts.2 .giveUps (by decide)]
        exact counterOf_bump_same .giveUps v
      · rw [gives eighth]
        exact raises_congr (raiseEvents_raises _ (bump .giveUps v)) (by rw [bump_events, whole])
      · rw [counterOf, (keeps few).1, ← counterOf]
        exact counts.2 .giveUps (by decide)
      · rw [disposeOf_drops few final]
        exact queue
      · rw [disposeOf_returns few kept]
        show returnToQueue f v.bus.queue = _
        rw [queue, returnToQueue_alone older alone]
      · rw [disposeOf_returns few kept]
        show returnToQueue f v.bus.queue = _
        rw [queue, one]
        have merged := returnToQueue_merged (older := []) (younger := []) (by rw [report]; decide)
          (same.trans report.symm) (by simp)
        rw [List.nil_append, List.nil_append, List.length_nil, Nat.min_zero] at merged
        rw [merged, ← report]
        rfl
      · rw [disposeOf_returns few kept]
        show returnToQueue f v.bus.queue = _
        rw [queue, split, returnToQueue_merged speaks same alone,
          Nat.min_eq_left (within.trans (by rw [List.length_append]; exact Nat.le_add_right _ _))]
      · rw [disposeOf_returns few kept]
        show returnToQueue f v.bus.queue = _
        rw [queue, returnToQueue_dropped leave]
      · rw [frame]
        exact timed.congr rfl rfl
      · rw [frame, bus]
      · rw [frame]
        rw [whole]

end Sys2Proof.Machine
end

section
/-! The completion of an attempt (R64, R67, R76, R77). -/

namespace Sys2Proof.Machine

/-- A state in which the cells of an attempt have passed the clock recovery (R55). -/
def CellsPassed (times : List (Option Int)) (s u : State) : Prop :=
  ∃ count receiver, u = { s with freeCount := count, bus := { timeCells times s.bus with receiver := receiver } }

theorem completeAttempt_sent {times : List (Option Int)} {f : InFlight} {s u : State} (passed : CellsPassed times s u) :
    AttemptSent times f s (completeAttempt f u) := by
  obtain ⟨count, receiver, hu⟩ := passed
  have bus : (completeAttempt f u).bus =
      { timeCells times s.bus with driver := .released, inFlight := none, receiver := spentReceiver } := by
    rw [hu]
    rfl
  have notices : (completeAttempt f u).notices = timersAfter f.entry s.params s.notices := by
    rw [hu]
    rfl
  refine ⟨(timeCells_timed times s.bus).congr (by rw [bus]) (by rw [bus]), ?_, ?_, ?_, fun report => ?_,
    fun solicit => ?_, fun report solicit => ?_, ?_⟩
  · rw [bus, timeCells_frame]
    rfl
  · rw [hu]
    exact counterOf_bump_same _ _
  · rw [hu]
    exact fun c other => CountersBut.bump _ _ c other
  · rw [notices, timersAfter, report]
    rfl
  · rw [notices, timersAfter, solicit]
    rfl
  · rw [notices, timersAfter]
    cases kind : f.entry.kind with
    | report => exact absurd kind report
    | solicit => exact absurd kind solicit
    | join => rfl
    | leave => rfl
  · rw [hu]
    rfl

section EndAttempt
variable {f : InFlight} {s : State}

theorem endAttempt_completes (goesOn : f.entry.kind ≠ .leave ∨ s.control.restartPending = false) :
    endAttempt f s = completeAttempt f s := if_neg fun ⟨leave, pending⟩ => goesOn.elim (fun other => other leave)
      fun still => absurd (still.symm.trans pending) (by decide)

theorem endAttempt_resets (leave : f.entry.kind = .leave) (pending : s.control.restartPending = true) :
    endAttempt f s = restartReset (completeAttempt f s) := if_pos ⟨leave, pending⟩

end EndAttempt

/-- The cells of a whole attempt that were heard as sent: those before the last, and the last. -/
theorem heardAsSent_split {f : InFlight} {front : List LineCell} {last : LineCell}
    (asSent : HeardAsSent f (front ++ [last])) (whole : (front ++ [last]).length = (frameCells f.frame).length) :
    ∃ sent, HeardAsSent f front ∧ (frameCells f.frame)[front.length]? = some sent ∧ cellValue last = some sent := by
  rw [HeardAsSent, whole, List.take_length, List.map_append] at asSent
  have ahead := congrArg (List.take front.length) asSent
  rw [List.take_left' (by rw [List.length_map]), ← List.map_take] at ahead
  have here : (front.map cellValue ++ [last].map cellValue)[front.length]? =
      ((frameCells f.frame).map some)[front.length]? := congrArg (fun values => values[front.length]?) asSent
  rw [List.getElem?_append_right (by rw [List.length_map]), List.length_map, Nat.sub_self,
    List.getElem?_map (f := some)] at here
  obtain ⟨sent, found, value⟩ := Option.map_eq_some_iff.mp here.symm
  exact ⟨sent, ahead, found, value.symm⟩

theorem hearAttempt_passed (f : InFlight) (s : State) : CellsPassed
    ((List.range (frameCells f.frame).length).map fun place => some (Config.echoOffset (s.freeCount + place))) s
    (hearAttempt f s) := ⟨_, (timeCells (echoTimes f s.freeCount) s.bus).receiver, rfl⟩

section Complete
variable {s : State} {f : InFlight} (flies : s.bus.inFlight = some f)
include flies

theorem exec_attemptComplete_track (track : s.bus.recovery = .track) :
    exec .attemptComplete s = .next (endAttempt f (hearAttempt f s)) := by
  rw [exec, execAttemptComplete, flies]
  dsimp only
  rw [if_neg (by rw [track]; decide)]

theorem exec_attemptComplete_seek (seek : s.bus.recovery = .seek) :
    exec .attemptComplete s = .next (collide f [] missedCell s) := by
  rw [exec, execAttemptComplete, flies]
  dsimp only
  rw [if_pos seek]

/-- LINE_IDLE tells the cells of an attempt that completes, and what follows. -/
theorem exec_lineIdle_completes {cells : List LineCell} (on : receiveOn s.control.station = true)
    (track : s.bus.recovery = .track) (asSent : HeardAsSent f cells)
    (whole : cells.length = (frameCells f.frame).length) :
    ∃ u, CellsPassed (cells.map LineCell.boundary) s u ∧ u.freeCount = s.freeCount ∧
      ∀ rest, exec (.lineIdle (cells ++ rest)) s =
        .next (hearCells cells.length (rest ++ [missedCell, missedCell]) (endAttempt f u)) := by
  have nonempty : cells ≠ [] := by
    rintro rfl
    cases whole
  obtain ⟨front, last, rfl⟩ := (List.eq_nil_or_concat' cells).resolve_left nonempty
  obtain ⟨sent, ahead, here, value⟩ := heardAsSent_split asSent whole
  rw [List.length_append, List.length_singleton] at whole
  have short : front.length < (frameCells f.frame).length := by omega
  have still : (afterAgreed f front s).bus.recovery = .track := by
    rw [afterAgreed, hearEcho_frame]
    exact track
  have flying : (afterAgreed f front s).bus.inFlight = some f := by
    rw [afterAgreed, hearEcho_frame]
    exact flies
  have place : (sentCells f)[0 + front.length]? = some sent := by rw [Nat.zero_add]; exact here
  have agrees : isCollision (afterAgreed f front s).bus.recovery sent last = false := by
    rw [Bool.eq_false_iff, ne_eq, isCollision_iff, still, value]
    simp
  refine ⟨{ afterAgreed f front s with bus := trackCell (afterAgreed f front s).bus last }, ?_, rfl, fun rest => ?_⟩
  · refine ⟨s.freeCount, (trackCell (afterAgreed f front s).bus last).receiver, ?_⟩
    rw [List.map_append, List.map_singleton, timeCells_concat track, afterAgreed, hearEcho, if_pos track]
    rfl
  · rw [exec, execLineIdle, if_pos on, List.append_assoc, List.append_assoc, hearCells_append,
      hearCells_heardAsSent flies track ahead short, List.singleton_append, hearCells, hearCell_echo still flying,
      echoCell, place]
    dsimp only
    rw [agrees, if_neg (by decide), if_pos (by rw [Nat.zero_add]; exact whole), List.length_append, Nat.zero_add]
    rfl

end Complete

/-- Settles O35. -/
theorem attemptCompletes : Obligations.AttemptCompletes := by
  intro s f flies
  refine ⟨fun seek => ?_, fun track goesOn => ?_, fun track leave pending => ?_, fun cells rest on track asSent whole => ?_⟩
  · exact (exec_attemptComplete_seek flies seek).trans (execCollision_missed flies).symm
  · have taken := exec_attemptComplete_track flies track
    rw [endAttempt_completes (s := hearAttempt f s) goesOn] at taken
    exact ⟨_, taken, completeAttempt_sent (hearAttempt_passed f s)⟩
  · have taken := exec_attemptComplete_track flies track
    rw [endAttempt_resets (s := hearAttempt f s) leave pending] at taken
    exact ⟨_, taken, rfl, restartReset_resets rfl rfl rfl⟩
  · obtain ⟨u, passed, count, told⟩ := exec_lineIdle_completes flies on track asSent whole
    obtain ⟨counted, receiver, hu⟩ := id passed
    have control : u.control = s.control := by rw [hu]
    refine ⟨fun goesOn => ?_, fun leave pending => ?_⟩
    · rw [← control] at goesOn
      have left : AtRest (completeAttempt f u).bus ∨ FreeTrack u.bus.missed (completeAttempt f u).bus := by
        refine .inr ⟨?_, rfl, rfl⟩
        show u.bus.recovery = .track
        rw [hu, timeCells_frame]
        exact track
      have ok : TracksOn (completeAttempt f u) := fun _ => by
        show receiveOn u.control.station = true
        rw [control]
        exact on
      refine ⟨completeAttempt f u, completeAttempt_sent passed, count, ?_⟩
      rw [told rest, endAttempt_completes goesOn, exec_lineIdle_left ok left]
    · rw [← control] at pending
      refine ⟨restartReset (completeAttempt f u), ?_, by rw [hu]; rfl, restartReset_resets ?_ ?_ ?_⟩
      · rw [told rest, endAttempt_resets leave pending, hearCells_seek rfl]
      all_goals rw [hu]
      all_goals rfl

end Sys2Proof.Machine
end

section
/-! The line coder and the frame receiver (R52, R57 to R59): what one drives, the other hands on. -/

namespace Sys2Proof.Machine

/-! ### The cells that are seen in coded levels -/

/-- A cell of a value, with its boundary transition where it is expected. -/
def sharpCell (value : Bool) : LineCell := { boundary := some 0, middle := !value }

theorem seenCells_fm0Levels (level : Bool) (cells : List Bool) :
    seenCells level (fm0Levels level cells) = cells.map sharpCell := by
  induction cells generalizing level with
  | nil => rfl
  | cons value cells ih =>
    cases value with
    | true =>
      rw [fm0Levels, seenCells, ih, List.map_cons]
      cases level <;> rfl
    | false =>
      rw [fm0Levels, seenCells, ih, List.map_cons]
      cases level <;> rfl

theorem map_cellValue_sharpCell (cells : List Bool) : (cells.map sharpCell).map cellValue = cells.map some := by
  rw [List.map_map]
  refine List.map_congr_left fun value _ => ?_
  cases value <;> rfl

/-! ### The receiver in a frame -/

theorem receiveSilently_append (r : Receiver) (before after : List (Option Bool)) :
    receiveSilently r (before ++ after) = receiveSilently (receiveSilently r before) after := List.foldl_append

/-- The receiver in FRAME between two bytes. -/
def inFrame (bytes : List Byte) : Receiver := { Receiver.reset with phase := .frame, bytes := bytes }

/-- The preamble and the delimiter bring the receiver into FRAME (R57). -/
theorem receiveSilently_delimiter :
    receiveSilently Receiver.reset ((List.replicate 16 true ++ byteCells delimiter).map some) = inFrame [] := by decide

/-- Cells within a byte are gathered (R58). -/
theorem receiveSilently_within (bytes : List Byte) (cells gathered : List Bool)
    (within : gathered.length + cells.length < 8) :
    receiveSilently { inFrame bytes with bits := gathered } (cells.map some) =
      { inFrame bytes with bits := gathered ++ cells } := by
  induction cells generalizing gathered with
  | nil => rw [List.append_nil]; rfl
  | cons value cells ih =>
    rw [List.length_cons] at within
    have room : gathered.length + 1 < 8 := by omega
    have step : (receiveCell { inFrame bytes with bits := gathered } (some value)).1 =
        { inFrame bytes with bits := gathered ++ [value] } := congrArg Prod.fst (if_pos room)
    show receiveSilently (receiveCell { inFrame bytes with bits := gathered } (some value)).1 (cells.map some) = _
    rw [step, ih (gathered ++ [value]) (by rw [List.length_append, List.length_singleton]; omega), List.append_assoc]
    rfl

/-- Seven cells of a byte are gathered (R58). -/
theorem receiveSilently_seven (bytes : List Byte) (b : Byte) :
    receiveSilently (inFrame bytes) (((byteCells b).take 7).map some) =
      { inFrame bytes with bits := (byteCells b).take 7 } :=
  receiveSilently_within bytes ((byteCells b).take 7) [] (show 0 + 7 < 8 by decide)

/-- The eighth cell completes the byte (R58, R59). -/
theorem receiveCell_eighth (bytes : List Byte) (b : Byte) :
    receiveCell { inFrame bytes with bits := (byteCells b).take 7 } (some (b.getLsbD 0)) =
      frameByte { inFrame bytes with bits := (byteCells b).take 7 } (bytes ++ [b]) false := by
  have whole : byteOfBits ((byteCells b).take 7 ++ [b.getLsbD 0]) = b := byteOfBits_byteCells b
  show frameByte _ (bytes ++ [byteOfBits ((byteCells b).take 7 ++ [b.getLsbD 0])]) _ = _
  rw [whole]
  rfl

theorem byteCells_split (b : Byte) : byteCells b = (byteCells b).take 7 ++ [b.getLsbD 0] := rfl

theorem receiveSilently_byte (bytes : List Byte) (b : Byte) :
    receiveSilently (inFrame bytes) ((byteCells b).map some) =
      (frameByte { inFrame bytes with bits := (byteCells b).take 7 } (bytes ++ [b]) false).1 := by
  rw [byteCells_split, List.map_append, receiveSilently_append, ← byteCells_split, receiveSilently_seven,
    ← receiveCell_eighth]
  rfl

section Frame
variable {header : Byte} {rest : List Byte} (declared : declaredLength header = some (rest.length + 1))
include declared

/-- A byte short of the declared length goes on with the frame. -/
theorem frameByte_goesOn {r : Receiver} {bytes : List Byte} (first : bytes.headD 0 = header)
    (short : bytes.length < rest.length + 1) :
    frameByte r bytes false = ({ r with bytes := bytes, bits := [], violated := false }, none) := by
  rw [frameByte, first, declared]
  exact if_neg (Nat.ne_of_lt short)

/-- The byte of the declared length ends the frame, COMPLETE. -/
theorem frameByte_completes {r : Receiver} {bytes : List Byte} (first : bytes.headD 0 = header)
    (whole : bytes.length = rest.length + 1) : (frameByte r bytes false).2 = some (.complete bytes) := by
  rw [frameByte, first, declared]
  dsimp only
  rw [if_pos whole]
  rfl

/-- The bytes before the last are gathered. -/
theorem receiveSilently_bytes {k : Nat} (short : k < rest.length + 1) :
    receiveSilently (inFrame []) ((((header :: rest).take k).flatMap byteCells).map some) =
      inFrame ((header :: rest).take k) := by
  induction k with
  | zero => rfl
  | succ k ih =>
    have inside : k < (header :: rest).length := Nat.lt_of_succ_lt short
    have first : ((header :: rest).take k ++ [(header :: rest)[k]]).headD 0 = header := by
      rw [← List.take_succ_eq_append_getElem inside]
      rfl
    have length : ((header :: rest).take k ++ [(header :: rest)[k]]).length < rest.length + 1 := by
      rw [← List.take_succ_eq_append_getElem inside, List.length_take]
      exact lt_of_le_of_lt (Nat.min_le_left _ _) short
    rw [List.take_succ_eq_append_getElem inside, List.flatMap_append, List.map_append, receiveSilently_append,
      ih (Nat.lt_of_succ_lt short), List.flatMap_singleton, receiveSilently_byte, frameByte_goesOn declared first length]
    rfl

end Frame

/-- Settles O33. -/
theorem codedFrameIsHeard : Obligations.CodedFrameIsHeard := by
  intro header rest declared
  obtain ⟨front, b, split⟩ := (List.eq_nil_or_concat' (header :: rest)).resolve_left (List.cons_ne_nil _ _)
  have length : front.length + 1 = rest.length + 1 := by
    have := congrArg List.length split
    rw [List.length_append, List.length_singleton] at this
    exact this.symm
  have taken : front = (header :: rest).take front.length := by rw [split, List.take_left]
  have cells : frameCells (header :: rest) =
      List.replicate 16 true ++ byteCells delimiter ++ front.flatMap byteCells ++ (byteCells b).take 7 ++ [b.getLsbD 0] := by
    rw [frameCells, split, List.flatMap_append, List.flatMap_singleton, List.append_assoc _ _ [b.getLsbD 0],
      ← byteCells_split, ← List.append_assoc]
  have heard : receiveSilently Receiver.reset ((List.replicate 16 true ++ byteCells delimiter ++ front.flatMap byteCells ++
      (byteCells b).take 7).map some) = { inFrame front with bits := (byteCells b).take 7 } := by
    have bytes := receiveSilently_bytes declared (k := front.length) (by omega)
    rw [← taken] at bytes
    rw [List.map_append, receiveSilently_append, List.map_append, receiveSilently_append, receiveSilently_delimiter, bytes,
      receiveSilently_seven]
  refine ⟨(List.replicate 16 true ++ byteCells delimiter ++ front.flatMap byteCells ++ (byteCells b).take 7).map sharpCell,
    sharpCell (b.getLsbD 0), ?_, fun c member => ?_, ?_⟩
  case refine_1 => rw [codedFrame, seenCells_fm0Levels, cells, List.map_append, List.map_singleton]
  case refine_2 =>
    rw [← List.map_singleton, ← List.map_append] at member
    obtain ⟨value, -, rfl⟩ := List.mem_map.mp member
    rfl
  case refine_3 =>
    have value : cellValue (sharpCell (b.getLsbD 0)) = some (b.getLsbD 0) := by cases b.getLsbD 0 <;> rfl
    rw [map_cellValue_sharpCell, heard, value, receiveCell_eighth, ← split]
    exact frameByte_completes declared rfl rfl

end Sys2Proof.Machine
end

section
/-! The filled notices (R63, R74, R75, R177), and how they read back (R79, R83). -/

namespace Sys2Proof.Machine

/-! ### The bytes of a filled notice -/

section Filled
variable (kind : NoticeKind) (s : State)

/-- The bytes that the CRC of a filled notice covers. -/
def filledCovered : List Byte :=
  headerByte kind s.control.number :: assignedSequence kind s.notices.sequence :: filledBody kind s

theorem filledNotice_eq :
    filledNotice kind s = filledCovered kind s ++
      [highByte (crc16 (filledCovered kind s)), lowByte (crc16 (filledCovered kind s))] := rfl

theorem length_filledCovered : (filledCovered kind s).length = noticeLength kind - 2 := by cases kind <;> rfl

theorem length_filledNotice : (filledNotice kind s).length = noticeLength kind := by
  have long := noticeLength_ge kind
  rw [filledNotice_eq, List.length_append, length_filledCovered]
  show noticeLength kind - 2 + 2 = _
  omega

theorem filledNotice_take : (filledNotice kind s).take (noticeLength kind - 2) = filledCovered kind s := by
  rw [filledNotice_eq, ← length_filledCovered kind s, List.take_left]

theorem filledNotice_crc :
    (filledNotice kind s)[noticeLength kind - 2]? = some (highByte (crc16 (filledCovered kind s))) ∧
    (filledNotice kind s)[noticeLength kind - 1]? = some (lowByte (crc16 (filledCovered kind s))) := by
  have long := noticeLength_ge kind
  rw [filledNotice_eq, show noticeLength kind - 1 = noticeLength kind - 2 + 1 by omega, ← length_filledCovered kind s,
    List.getElem?_append_right (Nat.le_refl _), List.getElem?_append_right (Nat.le_add_right _ 1), Nat.sub_self,
    Nat.add_sub_cancel_left]
  exact ⟨rfl, rfl⟩

end Filled

theorem headerByte_eq (kind : NoticeKind) (i : StationNo) :
    headerByte kind i = BitVec.ofNat 8 (16 * (kindCode kind).toNat + i.val) := by
  have all : ∀ (code : BitVec 4) (i : StationNo), code ++ BitVec.ofNat 4 i.val = BitVec.ofNat 8 (16 * code.toNat + i.val) := by
    decide
  exact all _ _

section Report
variable (s : State) (p : PortNo)

theorem reportBytes_get : (reportBytes s)[p.val]? = some (BitVec.ofNat 8 (16 * (conditionCode s.ports[p].condition).toNat +
    (effectiveWeight s.params.rampSteps.toNat s.ports[p]).toNat)) := by
  rw [← reportByte_eq, reportBytes, List.getElem?_map, List.getElem?_eq_getElem (by simp)]
  simp

theorem length_reportBytes : (reportBytes s).length = 8 := by simp [reportBytes]

theorem filledGroups_read {high low : Byte}
    (field : high = highByte (groupsField (Vector.ofFn fun p => s.ports[p].group)) ∧
      low = lowByte (groupsField (Vector.ofFn fun p => s.ports[p].group))) :
    (256 * high.toNat + low.toNat) / 4 ^ (7 - p.val) % 4 = s.ports[p].group.val := by
  rw [field.1, field.2, high_low_toNat, groupsField_group, ofFn_get]

/-- A report byte of a notice whose report bytes stand behind some others. -/
theorem report_place {before after : List Byte} :
    (before ++ (reportBytes s ++ after))[before.length + p.val]? =
      some (BitVec.ofNat 8 (16 * (conditionCode s.ports[p].condition).toNat +
        (effectiveWeight s.params.rampSteps.toNat s.ports[p]).toNat)) := by
  rw [List.getElem?_append_right (Nat.le_add_right _ _), Nat.add_sub_cancel_left,
    List.getElem?_append_left (by rw [length_reportBytes]; exact p.isLt), reportBytes_get]

end Report

/-- Settles O31. -/
theorem filledNoticeFields : Obligations.FilledNoticeFields := by
  refine ⟨rfl, rfl, fun kind s => ⟨length_filledNotice kind s, ?_, ?_, ?_, rfl, ?_, ?_, ?_⟩⟩
  · rw [filledNotice_take]
    exact (filledNotice_crc kind s).1
  · rw [filledNotice_take]
    exact (filledNotice_crc kind s).2
  · rw [← headerByte_eq]
    rfl
  · rintro rfl
    refine ⟨by rw [BitVec.ofNat_toNat]; rfl, rfl, rfl, rfl, rfl, fun p => ?_, fun high h low l p => ?_, rfl, rfl⟩
    · exact report_place s p (before := [headerByte .join s.control.number, 0, s.params.bucketCode.setWidth 8,
        highByte s.params.seed, lowByte s.params.seed, s.params.announce, s.params.checksum])
    · exact filledGroups_read s p ⟨(Option.some.inj h).symm, (Option.some.inj l).symm⟩
  · rintro (rfl | rfl)
    · refine ⟨rfl, fun p => ?_, fun high h low l p => ?_, rfl, rfl⟩
      · exact report_place s p (before := [headerByte .state s.control.number, s.notices.sequence, s.params.checksum])
      · exact filledGroups_read s p ⟨(Option.some.inj h).symm, (Option.some.inj l).symm⟩
    · refine ⟨rfl, fun p => ?_, fun high h low l p => ?_, rfl, rfl⟩
      · exact report_place s p (before := [headerByte .alert s.control.number, s.notices.sequence, s.params.checksum])
      · exact filledGroups_read s p ⟨(Option.some.inj h).symm, (Option.some.inj l).symm⟩
  · rintro rfl
    exact ⟨rfl, rfl⟩

end Sys2Proof.Machine
end

section
/-! A filled notice reads back at another station (R63, R79, R83, R177). -/

namespace Sys2Proof.Machine

/-! ### The header and the facts that were sent -/

theorem declaredLength_headerByte (kind : NoticeKind) (i : StationNo) :
    declaredLength (headerByte kind i) = some (noticeLength kind) := by
  have nibble : kindOfCode ((headerByte kind i).extractLsb' 4 4) = some kind := by
    revert i
    cases kind <;> decide
  rw [declaredLength, nibble]
  rfl

theorem headerByte_toNat (kind : NoticeKind) (i : StationNo) :
    (headerByte kind i).toNat = 16 * (kindCode kind).toNat + i.val := by
  have station := i.isLt
  have code := (kindCode kind).isLt
  rw [headerByte_eq, BitVec.toNat_ofNat]
  omega

theorem kindCode_injective {kind other : NoticeKind} (same : kindCode kind = kindCode other) : kind = other := by
  revert same
  cases kind <;> cases other <;> decide

theorem headerByte_injective {kind other : NoticeKind} {i j : StationNo} (same : headerByte kind i = headerByte other j) :
    kind = other ∧ i = j := by
  have values := congrArg BitVec.toNat same
  rw [headerByte_toNat, headerByte_toNat] at values
  have left := i.isLt
  have right := j.isLt
  exact ⟨kindCode_injective (BitVec.eq_of_toNat_eq (by omega)), Fin.ext (by omega)⟩

theorem reportByte_toNat (c : Condition) (weight : Weight) :
    (reportByte c weight).toNat = 16 * (conditionCode c).toNat + weight.toNat := by
  have code := (conditionCode c).isLt
  have most := weight.isLt
  rw [reportByte_eq, BitVec.toNat_ofNat]
  omega

/-- A report byte reads back as it was made, where the weight is one of its condition (R83). -/
theorem readFact_reportByte {c : Condition} {weight : Weight} (group : Group)
    (traffic : carriesTraffic c = true → 1 ≤ weight.toNat) (dark : carriesTraffic c = false → weight = 0) :
    readFact (reportByte c weight) group = { condition := c, weight := weight, group := group } := by
  have most := weight.isLt
  have code : (reportByte c weight).toNat / 16 = (conditionCode c).toNat := by
    rw [reportByte_toNat]
    omega
  have low : (reportByte c weight).extractLsb' 0 4 = weight := BitVec.eq_of_toNat_eq (by
    rw [low_nibble_toNat, reportByte_toNat]
    omega)
  rw [readFact_known group code, low]
  cases carries : carriesTraffic c with
  | true =>
    have some : weight ≠ 0#4 := by
      rintro rfl
      exact absurd (traffic carries) (by decide)
    rw [if_pos rfl, if_neg some]
  | false =>
    rw [if_neg (by decide), dark carries]

/-- A port that carries traffic has an effective weight of at least 1 (R20). -/
theorem effectiveWeight_pos {r : Nat} {p : Port} (small : r ≤ 8) (ok : PortOk r p)
    (traffic : carriesTraffic p.condition = true) : 1 ≤ (effectiveWeight r p).toNat := by
  obtain ⟨-, -, steps, -, weighs, -⟩ := id ok
  have on : p.condition ≠ .off := by
    intro off
    rw [off] at traffic
    cases traffic
  have weight : 1 ≤ p.weight.toNat := Nat.pos_iff_ne_zero.mpr fun zero =>
    (weighs (ok.enabled_of_on on)).1 (BitVec.eq_of_toNat_eq zero)
  cases condition : p.condition with
  | lit =>
    rw [effectiveWeight, condition]
    exact weight
  | ramping =>
    obtain ⟨least, below⟩ := steps condition
    obtain ⟨-, ramps, -⟩ := effectiveWeights p r weight (least.trans below.le) small
    exact (ramps condition least below).2.1
  | degraded =>
    obtain ⟨-, -, halves, -⟩ := effectiveWeights p 1 weight (Nat.le_refl 1) (by decide)
    have same : effectiveWeight r p = effectiveWeight 1 p := by rw [effectiveWeight, effectiveWeight, condition]
    rw [same, (halves condition).1]
    exact Nat.le_max_left _ _
  | off | dark | holding | drained =>
    rw [condition] at traffic
    cases traffic

theorem effectiveWeight_zero {r : Nat} {p : Port} (dark : carriesTraffic p.condition = false) :
    effectiveWeight r p = 0 := by
  unfold effectiveWeight
  revert dark
  cases p.condition <;> simp [carriesTraffic]

/-! ### The body that was sent -/

/-- A port as its station reports it (R33, R177). -/
def sentFact (s : State) (p : PortNo) : Fact :=
  { condition := s.ports[p].condition, weight := effectiveWeight s.params.rampSteps.toNat s.ports[p]
    group := s.ports[p].group }

/-- The facts of a body whose report and groups stand behind some bytes. -/
theorem readFacts_sent {s : State} (ok : PortsOk s) (before after : List Byte) (p : PortNo) :
    (readFacts (before ++ (reportBytes s ++ (groupBytes s ++ after))) before.length (before.length + 8))[p] =
      sentFact s p := by
  obtain ⟨small, ports⟩ := ok
  have report : (before ++ (reportBytes s ++ (groupBytes s ++ after))).getD (before.length + p.val) 0 =
      reportByte s.ports[p].condition (effectiveWeight s.params.rampSteps.toNat s.ports[p]) := by
    rw [List.getD_eq_getElem?_getD, report_place, reportByte_eq]
    rfl
  have behind (k : Nat) : (before ++ (reportBytes s ++ (groupBytes s ++ after))).getD (before.length + 8 + k) 0 =
      (groupBytes s ++ after).getD k 0 := by
    rw [List.getD_eq_getElem?_getD, List.getD_eq_getElem?_getD, List.getElem?_append_right (by omega),
      List.getElem?_append_right (by rw [length_reportBytes]; omega), length_reportBytes]
    congr 2
    omega
  have groups : ofBytes ((groupBytes s ++ after).getD 0 0) ((groupBytes s ++ after).getD 1 0) =
      groupsField (Vector.ofFn fun p => s.ports[p].group) := ofBytes_high_low _
  have group : groupInField (groupsField (Vector.ofFn fun p => s.ports[p].group)) p = s.ports[p].group :=
    Fin.ext (by rw [groupInField_val, groupsField_group, ofFn_get])
  have fact : (readFacts (before ++ (reportBytes s ++ (groupBytes s ++ after))) before.length (before.length + 8))[p] =
      readFact _ (groupInField (ofBytes _ _) p) := ofFn_get _ p
  rw [fact, report, behind 1, show before.length + 8 = before.length + 8 + 0 from rfl, behind 0, groups, group,
    readFact_reportByte _ (effectiveWeight_pos small (ports p)) effectiveWeight_zero, sentFact]

/-- What the bytes of a filled notice read back as. -/
theorem noticeOfBytes_filled (kind : NoticeKind) (s : State) :
    ∃ n, noticeOfBytes (filledNotice kind s) = some n ∧ crcAgrees n = true ∧ n.kind = kind ∧ n.sender = s.control.number ∧
      n.sequence = assignedSequence kind s.notices.sequence ∧ n.body = filledBody kind s := by
  have declared : declaredLength ((filledCovered kind s).getD 0 0) = some ((filledCovered kind s).length + 2) := by
    have long := noticeLength_ge kind
    rw [length_filledCovered, show noticeLength kind - 2 + 2 = noticeLength kind by omega]
    exact declaredLength_headerByte kind s.control.number
  obtain ⟨n, parsed, bytes, crc⟩ := noticeOfBytes_complete (crc := crc16 (filledCovered kind s)) declared
  obtain ⟨header, rest⟩ := List.cons.inj bytes
  obtain ⟨sequence, body⟩ := List.cons.inj rest
  obtain ⟨same, sender⟩ := headerByte_injective header
  exact ⟨n, parsed, (crcAgrees_iff n).mpr (by rw [bytes, crc]), same, sender, sequence, body⟩

/-- Settles O32. -/
theorem filledNoticeReadsBack : Obligations.FilledNoticeReadsBack := by
  intro kind s ok
  obtain ⟨n, parsed, agrees, same, sender, sequence, body⟩ := noticeOfBytes_filled kind s
  refine ⟨n, parsed, agrees, same, sender, sequence, fun report => ?_, fun speaks => ?_, ?_⟩
  · rw [same, body]
    rcases report with rfl | rfl | rfl
    · exact ⟨rfl, readFacts_sent ok [s.params.bucketCode.setWidth 8, highByte s.params.seed, lowByte s.params.seed,
        s.params.announce, s.params.checksum] (halfBytes s.table.digest)⟩
    · exact ⟨rfl, readFacts_sent ok [s.params.checksum] (halfBytes s.table.digest)⟩
    · exact ⟨rfl, readFacts_sent ok [s.params.checksum] (halfBytes s.table.digest)⟩
  · rw [same, body]
    cases kind with
    | leave => exact absurd rfl speaks
    | join | state | alert | solicit => exact ofBytes_high_low s.table.digest
  · rintro rfl
    rw [body]
    refine ⟨?_, ofBytes_high_low s.params.seed, rfl⟩
    show (s.params.bucketCode.setWidth 8).extractLsb' 0 2 = s.params.bucketCode
    apply BitVec.eq_of_toNat_eq
    have code := s.params.bucketCode.isLt
    rw [BitVec.extractLsb'_toNat, BitVec.toNat_setWidth, Nat.shiftRight_zero]
    omega

end Sys2Proof.Machine
end

section
/-! The recompute engine's work on a bucket (R139, R140, R144 to R146). -/

namespace Sys2Proof.Machine

/-- The word that the arithmetic gives a bucket from the snapshot. -/
def arithmeticWord (s : State) (g : Group) (b : Bucket) : MapWord :=
  mapWord (bucketPrimary s.params.seed g b s.engine.snapshot) (bucketBackup s.params.seed g b s.engine.snapshot)

section Bucket
variable {g : Group} {b : Bucket} {s : State} (runs : s.engine.run = .running g b) (ok : MapOk s)
  (start : s.engine.score = ScoreUnit.reset)

include start in
theorem bucketWord_eq : bucketWord s.params s.engine g b = arithmeticWord s g b := by
  rw [bucketWord, start]
  rfl

include ok in
theorem writeBucket_word (stuck : MapWord) :
    storedWord g (!s.map.active[g]) b (writeBucket g b stuck s).map = bucketWord s.params s.engine g b ^^^ stuck :=
  storedWord_storeWord_same g (!s.map.active[g]) b _ ok

include ok in
theorem writeBucket_other (stuck : MapWord) {g' : Group} {k : Bool} {b' : Bucket}
    (other : ¬ (g' = g ∧ k = (!s.map.active[g]) ∧ b' = b)) :
    storedWord g' k b' (writeBucket g b stuck s).map = storedWord g' k b' s.map :=
  storedWord_storeWord_other _ ok other

theorem storedWord_congr {m m' : MapMemory} (words : m'.words = m.words) (g : Group) (k : Bool) (b : Bucket) :
    storedWord g k b m' = storedWord g k b m := by
  rw [storedWord, storedWord, words]

include runs ok

theorem exec_bucketDone_holds : exec (.bucketDone 0) s = .next (writeHeld g b (writeBucket g b 0 s)) := by
  have agrees : readBackAgrees g b 0 s = true := by
    rw [readBackAgrees, writeBucket_word ok, beq_iff_eq]
    exact BitVec.xor_zero
  rw [exec, execBucketDone, runs]
  exact if_pos agrees

theorem exec_bucketDone_fails {stuck : MapWord} (fails : stuck ≠ 0) :
    exec (.bucketDone stuck) s = .next (writeFailed g (writeBucket g b stuck s)) := by
  have differs : ¬ readBackAgrees g b stuck s = true := by
    rw [readBackAgrees, writeBucket_word ok, beq_iff_eq]
    intro same
    refine fails ?_
    calc stuck = bucketWord s.params s.engine g b ^^^ (bucketWord s.params s.engine g b ^^^ stuck) := by
          rw [← BitVec.xor_assoc, BitVec.xor_self, BitVec.zero_xor]
      _ = 0 := by
          rw [same, BitVec.xor_self]
          rfl
  rw [exec, execBucketDone, runs]
  exact if_neg differs

end Bucket

/-! ### The next bucket, and the flip -/

theorem writeHeld_next {g : Group} {b b' : Bucket} {s : State} (next : b'.val = b.val + 1)
    (more : b'.val < bucketCount s.params.bucketCode) :
    writeHeld g b s = { s with engine := { s.engine with run := .running g b', score := ScoreUnit.reset } } := by
  have inside : b.val + 1 < bucketCount s.params.bucketCode ∧ b.val + 1 < 2048 := by
    have := b'.isLt
    omega
  have same : (⟨b.val + 1, inside.2⟩ : Bucket) = b' := Fin.ext next.symm
  rw [writeHeld, dif_pos inside, same]

theorem writeHeld_last {g : Group} {b : Bucket} {s : State} (last : b.val + 1 = bucketCount s.params.bucketCode) :
    writeHeld g b s = flip g s := dif_neg (by omega)

theorem nextGeneration_toNat (n : Half) : (nextGeneration n).toNat = n.toNat % 65535 + 1 := by
  have most := n.isLt
  rw [nextGeneration]
  split_ifs with full
  · rw [full]
    rfl
  · have notFull : n.toNat ≠ 65535 := fun same => full (BitVec.eq_of_toNat_eq same)
    rw [BitVec.toNat_add]
    show (n.toNat + 1) % 65536 = _
    omega

theorem flip_map (g : Group) (s : State) :
    (flip g s).map = { s.map with
      active := s.map.active.set g (!s.map.active[g])
      generation := s.map.generation.set g (nextGeneration s.map.generation[g]) } := by
  rw [flip, search_map]
  rfl

theorem flip_frame (g : Group) (s : State) :
    flip g s = { s with
      map := (flip g s).map, engine := (flip g s).engine, counters := (flip g s).counters
      table := { s.table with dirty := (flip g s).table.dirty } } := by
  unfold flip
  rw [search_eq]
  rfl

theorem flip_follows (g : Group) (s : State) :
    SearchFollows
      { s.engine with run := .idle, score := ScoreUnit.reset, pointer := g, retried := s.engine.retried.set g false }
      (fun h => s.table.dirty[h] = true) s (flip g s) :=
  search_searchFollows rfl (fun _ => Iff.rfl) (counterOf_bump_other (by decide) _)

theorem flip_counts (g : Group) (s : State) :
    counterOf .flips (flip g s) = saturatingHalf (counterOf .flips s) ∧ CountersBut [.flips, .recomputes] s (flip g s) := by
  have flipped (u : State) (same : u.counters = s.counters) :
      counterOf .flips (search (bump .flips u)) = saturatingHalf (counterOf .flips s) ∧
      CountersBut [.flips, .recomputes] s (search (bump .flips u)) := by
    have first : CountersBut [.flips] s (bump .flips u) := fun c other => by
      rw [CountersBut.bump .flips u c other, counterOf, counterOf, same]
    refine ⟨?_, first.trans (search_countersBut _)⟩
    rw [search_countersBut _ .flips (by decide), counterOf_bump_same, counterOf, counterOf, same]
  exact flipped _ rfl

theorem entry_set_same {α : Type} (v : Vector α 4) (g : Group) (x : α) : (v.set g x)[g] = x := by simp

theorem entry_set_other {α : Type} (v : Vector α 4) {g g' : Group} (other : g' ≠ g) (x : α) : (v.set g x)[g'] = v[g'] := by
  have apart : (g : Nat) ≠ g' := fun same => other (Fin.ext same.symm)
  simp [Vector.getElem_set_ne, apart]

/-- Settles O43. -/
theorem bucketDoneWritesShadow : Obligations.BucketDoneWritesShadow := by
  intro g b s runs ok start
  obtain ⟨v, hv⟩ : ∃ v, v = writeBucket g b 0 s := ⟨_, rfl⟩
  have same : v = { s with map := v.map } := by rw [hv]; rfl
  have word : storedWord g (!s.map.active[g]) b v.map = arithmeticWord s g b := by
    rw [hv, writeBucket_word ok, bucketWord_eq start]
    exact BitVec.xor_zero
  have active : v.map.active = s.map.active := by rw [hv]; rfl
  have generation : v.map.generation = s.map.generation := by rw [hv]; rfl
  have params : v.params = s.params := by rw [same]
  refine ⟨writeHeld g b v, by rw [exec_bucketDone_holds runs ok, hv], ?_, fun g' k b' other => ?_,
    fun b' next more => ?_, fun last => ?_⟩
  · rw [storedWord_congr (writeHeld_words g b v)]
    exact word
  · rw [storedWord_congr (writeHeld_words g b v), hv]
    exact writeBucket_other ok 0 other
  · rw [writeHeld_next next (by rw [params]; exact more)]
    refine ⟨?_, active, generation, ?_⟩
    · rw [same]
    · rw [same]
  · have flips : writeHeld g b v = flip g v := writeHeld_last (by rw [params]; exact last)
    rw [flips]
    have map := flip_map g v
    rw [active, generation] at map
    have follows := flip_follows g v
    have counts := flip_counts g v
    have frame := flip_frame g v
    obtain ⟨t, ht⟩ : ∃ t, t = flip g v := ⟨_, rfl⟩
    rw [← ht] at map follows counts frame ⊢
    rw [same] at follows counts frame
    refine ⟨?_, ?_, fun g' other => ⟨?_, ?_⟩, counts.1, counts.2, follows, ?_, ?_⟩
    · rw [map]
      exact entry_set_same _ _ _
    · rw [map]
      show (s.map.generation.set g _)[g].toNat = _
      rw [entry_set_same, nextGeneration_toNat]
    · rw [map]
      exact entry_set_other _ other _
    · rw [map]
      exact entry_set_other _ other _
    · rw [frame]
    · rw [frame]

end Sys2Proof.Machine
end

section
/-! A failed write into the shadow bank (R145, R146). -/

namespace Sys2Proof.Machine

section Failed
variable {g : Group} {s : State}

theorem writeFailed_retries (once : s.engine.retried[g] = false) (may : engineMayStart s.control.station = true) :
    writeFailed g s = startRecompute g { s with engine := { s.engine with retried := s.engine.retried.set g true } } := by
  rw [writeFailed, once, if_neg (by decide), retry, if_pos may]

theorem writeFailed_flags (once : s.engine.retried[g] = false) (may : engineMayStart s.control.station = false) :
    writeFailed g s = markDirty g { s with engine := { s.engine with
      run := .idle, score := ScoreUnit.reset, retried := s.engine.retried.set g true } } := by
  rw [writeFailed, once, if_neg (by decide), retry, if_neg (by rw [may]; decide)]

theorem writeFailed_faults (twice : s.engine.retried[g] = true) : writeFailed g s = mapFault g s := if_pos twice

theorem mapFault_frame (g : Group) (s : State) :
    mapFault g s = { s with
      events := (mapFault g s).events, freeCount := (mapFault g s).freeCount, engine := (mapFault g s).engine
      counters := (mapFault g s).counters, table := { s.table with dirty := (mapFault g s).table.dirty } } := by
  unfold mapFault
  rw [search_eq]
  rfl

/-- What a failed write leaves, whichever way it goes on. -/
theorem writeFailed_frame (g : Group) (s : State) :
    writeFailed g s = { s with
      events := (writeFailed g s).events, freeCount := (writeFailed g s).freeCount, engine := (writeFailed g s).engine
      counters := (writeFailed g s).counters, table := { s.table with dirty := (writeFailed g s).table.dirty } } := by
  cases again : s.engine.retried[g] with
  | true =>
    rw [writeFailed_faults again]
    exact mapFault_frame g s
  | false =>
    cases may : engineMayStart s.control.station with
    | true =>
      rw [writeFailed_retries again may]
      rfl
    | false =>
      rw [writeFailed_flags again may]
      rfl

theorem mapFault_follows (g : Group) (s : State) :
    SearchFollows
      { s.engine with run := .idle, score := ScoreUnit.reset, pointer := g, fault := s.engine.fault.set g true }
      (fun h => s.table.dirty[h] = true) s (mapFault g s) ∧
    Raises [raiseAbout .mapFault g.val] s (mapFault g s) ∧ CountersBut [.recomputes] s (mapFault g s) := by
  refine ⟨search_searchFollows rfl (fun _ => Iff.rfl) rfl, ?_, search_countersBut _⟩
  have raised := raiseEvents_raises [raiseAbout .mapFault g.val] { s with
    engine := { s.engine with run := .idle, score := ScoreUnit.reset, pointer := g, fault := s.engine.fault.set g true } }
  unfold mapFault
  unfold Raises at raised ⊢
  rwa [search_events]

end Failed

/-- Settles O44. -/
theorem failedWriteRetriesThenFaults : Obligations.FailedWriteRetriesThenFaults := by
  intro g b stuck s runs ok fails start
  obtain ⟨v, hv⟩ : ∃ v, v = writeBucket g b stuck s := ⟨_, rfl⟩
  have same : v = { s with map := v.map } := by rw [hv]; rfl
  obtain ⟨t, ht⟩ : ∃ t, t = writeFailed g v := ⟨_, rfl⟩
  have map : t.map = v.map := by rw [ht, writeFailed_map]
  have frame := writeFailed_frame g v
  rw [← ht] at frame
  rw [same] at frame
  have retried : v.engine.retried[g] = s.engine.retried[g] := by rw [same]
  have control : v.control = s.control := by rw [same]
  refine ⟨t, by rw [exec_bucketDone_fails runs ok fails, ht, hv], ?_, ?_, ?_, fun g' k b' other => ?_,
    fun once may => ?_, fun once joining => ?_, fun twice => ?_, ?_, ?_, ?_, ?_, ?_, ?_, ?_, ?_, ?_, ?_, ?_, ?_, ?_⟩
  · rw [map, hv]
    rfl
  · rw [map, hv]
    rfl
  · rw [map, hv, writeBucket_word ok, bucketWord_eq start]
    rfl
  · rw [map, hv]
    exact writeBucket_other ok stuck other
  · have retries := writeFailed_retries (s := v) (g := g) (by rw [retried, once]) (by rw [control, may])
    rw [ht, retries, same]
    exact ⟨rfl, rfl, counterOf_bump_same _ _, CountersBut.bump .recomputes { s with
      map := v.map, table := _, engine := _ }, rfl⟩
  · have flags := writeFailed_flags (s := v) (g := g) (by rw [retried, once]) (by rw [control, joining]; rfl)
    rw [ht, flags, same]
    exact ⟨rfl, rfl, rfl, rfl⟩
  · have faults := writeFailed_faults (s := v) (g := g) (by rw [retried, twice])
    obtain ⟨follows, raised, counts⟩ := mapFault_follows g v
    rw [← faults, ← ht] at follows raised counts
    rw [same] at follows raised counts
    exact ⟨follows, raised, interrupt_of_fatal raised rfl, counts⟩
  all_goals rw [frame]

end Sys2Proof.Machine
end

section
/-! The entry of a bucket when one candidate of the snapshot changes (R127, R129, R130). -/

namespace Sys2Proof.Machine

section Scores
variable {seed : Half} {g : Group} {b : Bucket} {snapshot : List SnapshotPair} {u : UplinkId}

/-! ### The backup as the next primary (R127) -/

theorem filter_uplink (ordered : (snapshot.map SnapshotPair.uplink).Pairwise (· < ·)) {x : SnapshotPair}
    (hx : x ∈ snapshot) : (snapshot.filter fun pair => pair.uplink != x.uplink) = snapshot.filter (· ≠ x) := by
  refine List.filter_congr fun y hy => ?_
  rw [Bool.eq_iff_iff, bne_iff_ne, decide_eq_true_eq, not_iff_not]
  exact ⟨eq_of_uplink_eq ordered hy hx, fun same => by rw [same]⟩

/-- The backup is the primary of the snapshot without the entry's primary. -/
theorem bucketBackup_eq (ordered : (snapshot.map SnapshotPair.uplink).Pairwise (· < ·))
    (primary : bucketPrimary seed g b snapshot = some u) :
    bucketBackup seed g b snapshot = bucketPrimary seed g b (snapshot.filter fun pair => pair.uplink != u) := by
  rcases bucketEntry_cases seed g b ordered with ⟨-, no, -⟩ | ⟨x, rfl, one, backup⟩ | ⟨x, y, first, second, two, backup⟩
  · exact absurd (no.symm.trans primary) (by simp)
  · obtain rfl := Option.some.inj (one.symm.trans primary)
    rw [backup, List.filter_cons_of_neg (by simp)]
    rfl
  · obtain rfl := Option.some.inj (two.symm.trans primary)
    rw [backup, filter_uplink ordered first.1]
    exact (bucketPrimary_of_first (ordered.sublist (List.filter_sublist.map _)) second).symm

theorem mem_of_bucketPrimary (ordered : (snapshot.map SnapshotPair.uplink).Pairwise (· < ·))
    (primary : bucketPrimary seed g b snapshot = some u) : u ∈ snapshot.map SnapshotPair.uplink := by
  obtain ⟨x, first, rfl⟩ := (bucketPrimary_eq_some_iff ordered).mp primary
  exact List.mem_map_of_mem first.1

theorem exists_primary_of_backup (ordered : (snapshot.map SnapshotPair.uplink).Pairwise (· < ·))
    (backup : bucketBackup seed g b snapshot = some u) : ∃ x, bucketPrimary seed g b snapshot = some x := by
  rcases bucketEntry_cases seed g b ordered with ⟨-, -, no⟩ | ⟨x, -, -, no⟩ | ⟨x, y, -, -, two, -⟩
  · exact absurd (no.symm.trans backup) (by simp)
  · exact absurd (no.symm.trans backup) (by simp)
  · exact ⟨_, two⟩

end Scores

/-- Settles O48. -/
theorem backupIsNextPrimary : Obligations.BackupIsNextPrimary := by
  intro seed g b snapshot ordered
  refine ⟨fun u primary => ⟨mem_of_bucketPrimary ordered primary, bucketBackup_eq ordered primary⟩, fun v backup => ?_⟩
  obtain ⟨u, primary⟩ := exists_primary_of_backup ordered backup
  rw [bucketBackup_eq ordered primary] at backup
  have sub : (snapshot.filter fun pair => pair.uplink != u).Sublist snapshot := List.filter_sublist
  exact (sub.map SnapshotPair.uplink).subset (mem_of_bucketPrimary (ordered.sublist (sub.map _)) backup)

/-! ### Ranks when a weight changes (R119, R120) -/

section Weights
variable {seed : Half} {g : Group} {b : Bucket}

theorem weightedScore_mono {x y : SnapshotPair} (same : x.uplink = y.uplink) (le : x.weight.toNat ≤ y.weight.toNat) :
    weightedScore seed g b x ≤ weightedScore seed g b y := by
  rw [weightedScore, weightedScore, same]
  exact Nat.mul_le_mul_left _ le

/-- A candidate stays above another when its weight rises and the other's falls. -/
theorem RanksAbove.mono {x x' z z' : SnapshotPair} (above : RanksAbove seed g b x z) (own : x'.uplink = x.uplink)
    (rises : x.weight.toNat ≤ x'.weight.toNat) (others : z'.uplink = z.uplink) (falls : z'.weight.toNat ≤ z.weight.toNat) :
    RanksAbove seed g b x' z' := by
  have up := weightedScore_mono (seed := seed) (g := g) (b := b) own.symm rises
  have down := weightedScore_mono (seed := seed) (g := g) (b := b) others falls
  rcases above with higher | ⟨equal, lower⟩
  · exact .inl (by omega)
  · rcases Nat.lt_or_ge (weightedScore seed g b z') (weightedScore seed g b x') with higher | most
    · exact .inl higher
    · exact .inr ⟨by omega, by rw [own, others]; exact lower⟩

/-- A primary stays whose weight has not fallen and which no added or raised candidate outranks (R130). -/
theorem bucketPrimary_kept {old new : List SnapshotPair} {x x' : SnapshotPair}
    (oldOrder : (old.map SnapshotPair.uplink).Pairwise (· < ·)) (newOrder : (new.map SnapshotPair.uplink).Pairwise (· < ·))
    (hx : x ∈ old) (primary : bucketPrimary seed g b old = some x.uplink) (hx' : x' ∈ new) (same : x'.uplink = x.uplink)
    (rises : x.weight.toNat ≤ x'.weight.toNat)
    (others : ∀ z ∈ new, z ≠ x' →
      (∃ z₀ ∈ old, z₀.uplink = z.uplink ∧ z.weight.toNat ≤ z₀.weight.toNat) ∨ RanksAbove seed g b x' z) :
    bucketPrimary seed g b new = some x.uplink := by
  obtain ⟨top, first, named⟩ := (bucketPrimary_eq_some_iff oldOrder).mp primary
  obtain rfl := eq_of_uplink_eq oldOrder first.1 hx named
  rw [← same]
  refine bucketPrimary_of_first newOrder ⟨hx', fun z hz other => ?_⟩
  rcases others z hz other with ⟨z₀, hz₀, known, falls⟩ | above
  · have apart : z₀ ≠ top := by
      rintro rfl
      exact other (eq_of_uplink_eq newOrder hz hx' (known.symm.trans same.symm))
    exact (first.2 z₀ hz₀ apart).mono same rises known.symm falls
  · exact above

/-- The entry depends on ids and scores alone. -/
theorem scoreRest_congr {old new : List SnapshotPair}
    (same : new.map (scoredPair seed g b) = old.map (scoredPair seed g b)) :
    scoreRest seed g b new ScoreUnit.reset = scoreRest seed g b old ScoreUnit.reset := by
  have folded (pairs : List SnapshotPair) : scoreRest seed g b pairs ScoreUnit.reset =
      (pairs.map (scoredPair seed g b)).foldl placeScored ScoreUnit.reset := List.foldl_map.symm
  rw [folded, folded, same]

end Weights

/-! ### One candidate added, raised or lowered (R129) -/

section OneCandidate
variable {seed : Half} {g : Group} {b : Bucket} {before after old : List SnapshotPair} {u : UplinkId} {w w' : Weight}

/-- The old snapshot lacks the candidate, or has it with a weight that is no higher. -/
def AddedOrRaised (before after : List SnapshotPair) (u : UplinkId) (w' : Weight) (old : List SnapshotPair) : Prop :=
  old = before ++ after ∨ ∃ w : Weight, old = before ++ { uplink := u, weight := w } :: after ∧ w.toNat ≤ w'.toNat

theorem mem_with {c z : SnapshotPair} : z ∈ before ++ c :: after ↔ z = c ∨ z ∈ before ++ after := by
  rw [List.mem_append, List.mem_cons, List.mem_append]
  tauto

theorem filter_other {v : UplinkId} (named : u ≠ v) (w : Weight) :
    (before ++ { uplink := u, weight := w } :: after).filter (fun pair => pair.uplink != v) =
      before.filter (fun pair => pair.uplink != v) ++
        { uplink := u, weight := w } :: after.filter fun pair => pair.uplink != v := by
  have kept : ((⟨u, w⟩ : SnapshotPair).uplink != v) = true := bne_iff_ne.mpr named
  rw [List.filter_append, List.filter_cons, if_pos kept]

section Ordered
variable (ordered : ((before ++ { uplink := u, weight := w' } :: after).map SnapshotPair.uplink).Pairwise (· < ·))
include ordered

/-- The ids of a snapshot are the same whatever the weight of a candidate. -/
theorem ordered_weight (w : Weight) :
    ((before ++ { uplink := u, weight := w } :: after).map SnapshotPair.uplink).Pairwise (· < ·) := by
  rw [List.map_append, List.map_cons] at ordered ⊢
  exact ordered

theorem ordered_without : ((before ++ after).map SnapshotPair.uplink).Pairwise (· < ·) :=
  ordered.sublist (((List.sublist_cons_self _ _).append_left before).map _)

theorem ordered_old (given : AddedOrRaised before after u w' old) : (old.map SnapshotPair.uplink).Pairwise (· < ·) := by
  rcases given with rfl | ⟨w, rfl, -⟩
  · exact ordered_without ordered
  · exact ordered_weight ordered w

theorem ne_of_mem_without {z : SnapshotPair} (hz : z ∈ before ++ after) : z.uplink ≠ u := by
  intro same
  have distinct : (before ++ { uplink := u, weight := w' } :: after).Nodup :=
    List.Nodup.of_map _ (ordered.imp ne_of_lt)
  have known := eq_of_uplink_eq ordered (mem_with.mpr (.inr hz)) (mem_with.mpr (.inl rfl)) same
  rw [known] at hz
  exact (List.nodup_middle.mp distinct).notMem hz

theorem filter_without (w : Weight) :
    ((before ++ { uplink := u, weight := w } :: after).filter fun pair => pair.uplink != u) = before ++ after := by
  have stays {part : List SnapshotPair} (sub : part ⊆ before ++ after) :
      (part.filter fun pair => pair.uplink != u) = part :=
    List.filter_eq_self.mpr fun z hz => bne_iff_ne.mpr (ne_of_mem_without ordered (sub hz))
  rw [List.filter_append, List.filter_cons_of_neg (by simp), stays (List.subset_append_left _ _),
    stays (List.subset_append_right _ _)]

/-- Where the candidate is the primary, the backup is the primary of the others. -/
theorem bucketBackup_own (w : Weight)
    (primary : bucketPrimary seed g b (before ++ { uplink := u, weight := w } :: after) = some u) :
    bucketBackup seed g b (before ++ { uplink := u, weight := w } :: after) = bucketPrimary seed g b (before ++ after) := by
  rw [bucketBackup_eq (ordered_weight ordered w) primary, filter_without ordered]

/-- The new primary is the old one or the candidate that has been added or raised. -/
theorem bucketPrimary_raised (given : AddedOrRaised before after u w' old) :
    bucketPrimary seed g b (before ++ { uplink := u, weight := w' } :: after) = bucketPrimary seed g b old ∨
    bucketPrimary seed g b (before ++ { uplink := u, weight := w' } :: after) = some u := by
  obtain ⟨x, first⟩ := exists_ranksFirst seed g b ordered (by simp)
  have primary := bucketPrimary_of_first ordered first
  rcases mem_with.mp first.1 with rfl | hx
  · exact .inr primary
  · refine .inl (primary.trans (bucketPrimary_of_first (ordered_old ordered given) ?_).symm)
    rcases given with rfl | ⟨w, rfl, rises⟩
    · exact first.of_subset (fun z hz => mem_with.mpr (.inr hz)) hx
    · refine ⟨mem_with.mpr (.inr hx), fun z hz other => ?_⟩
      rcases mem_with.mp hz with rfl | hz
      · have apart : (⟨u, w'⟩ : SnapshotPair) ≠ x := by
          rintro rfl
          exact ne_of_mem_without ordered hx rfl
        exact (first.2 ⟨u, w'⟩ (mem_with.mpr (.inl rfl)) apart).mono rfl (Nat.le_refl _) rfl rises
      · exact first.2 z (mem_with.mpr (.inr hz)) other

/-- The new backup is the old primary, the old backup or the candidate. -/
theorem bucketBackup_raised (given : AddedOrRaised before after u w' old) :
    bucketBackup seed g b (before ++ { uplink := u, weight := w' } :: after) = bucketPrimary seed g b old ∨
    bucketBackup seed g b (before ++ { uplink := u, weight := w' } :: after) = bucketBackup seed g b old ∨
    bucketBackup seed g b (before ++ { uplink := u, weight := w' } :: after) = some u := by
  have own (primary : bucketPrimary seed g b (before ++ { uplink := u, weight := w' } :: after) = some u) :
      bucketBackup seed g b (before ++ { uplink := u, weight := w' } :: after) = bucketPrimary seed g b old ∨
      bucketBackup seed g b (before ++ { uplink := u, weight := w' } :: after) = bucketBackup seed g b old := by
    rw [bucketBackup_own ordered w' primary]
    rcases given with rfl | ⟨w, rfl, -⟩
    · exact .inl rfl
    · have either := bucketPrimary_raised (seed := seed) (g := g) (b := b) (old := before ++ after)
        (ordered_weight ordered w) (.inl rfl)
      exact either.imp Eq.symm fun same => (bucketBackup_own ordered w same).symm
  rcases bucketPrimary_raised (seed := seed) (g := g) (b := b) ordered given with same | primary
  · obtain ⟨x, first⟩ := exists_ranksFirst seed g b ordered (by simp)
    have primary := bucketPrimary_of_first ordered first
    by_cases named : x.uplink = u
    · rw [named] at primary
      exact (own primary).imp_right .inl
    · have kept := filter_other (before := before) (after := after) (Ne.symm named) w'
      have fewer : AddedOrRaised (before.filter fun pair => pair.uplink != x.uplink)
          (after.filter fun pair => pair.uplink != x.uplink) u w' (old.filter fun pair => pair.uplink != x.uplink) := by
        rcases given with rfl | ⟨w, rfl, rises⟩
        · exact .inl (List.filter_append ..)
        · exact .inr ⟨w, filter_other (Ne.symm named) w, rises⟩
      have still := ordered.sublist
        ((List.filter_sublist (p := fun pair : SnapshotPair => pair.uplink != x.uplink)).map SnapshotPair.uplink)
      rw [kept] at still
      rw [bucketBackup_eq ordered primary, bucketBackup_eq (ordered_old ordered given) (same.symm.trans primary), kept]
      exact .inr (bucketPrimary_raised still fewer)
  · exact (own primary).imp_right .inl

end Ordered
end OneCandidate

/-- Settles O50. -/
theorem oneWeightMovesOnlyItsOwn : Obligations.OneWeightMovesOnlyItsOwn := by
  intro seed g b
  refine ⟨fun before after old new u w w' ordered hnew => ?_, fun old new x x' oldOrder newOrder hx primary hx' same rises
    others => bucketPrimary_kept oldOrder newOrder hx primary hx' same rises others⟩
  subst hnew
  refine ⟨fun given => ?_, fun hold rises either => ?_, fun hold falls => ⟨fun v other primary => ?_, fun primary => ?_⟩⟩
  · have raised : AddedOrRaised before after u w' old := given.imp_right fun both => ⟨w, both⟩
    exact ⟨bucketPrimary_raised ordered raised, bucketBackup_raised ordered raised⟩
  · subst hold
    rcases either with primary | score
    · have kept := bucketPrimary_kept (ordered_weight ordered w) ordered (mem_with.mpr (.inl rfl)) primary
        (mem_with.mpr (.inl rfl)) rfl rises fun z hz apart =>
          .inl ⟨z, mem_with.mpr (.inr ((mem_with.mp hz).resolve_left apart)), rfl, Nat.le_refl _⟩
      exact ⟨kept.trans primary.symm,
        (bucketBackup_own ordered w' kept).trans (bucketBackup_own ordered w primary).symm⟩
    · have scored : scoredPair seed g b { uplink := u, weight := w' } = scoredPair seed g b { uplink := u, weight := w } := by
        rw [scoredPair, score]
        rfl
      have unit := scoreRest_congr (seed := seed) (g := g) (b := b)
        (new := before ++ { uplink := u, weight := w' } :: after) (old := before ++ { uplink := u, weight := w } :: after)
        (by rw [List.map_append, List.map_cons, List.map_append, List.map_cons, scored])
      exact ⟨by rw [bucketPrimary, bucketPrimary, unit], by rw [bucketBackup, bucketBackup, unit]⟩
  · subst hold
    obtain ⟨x, first, rfl⟩ := (bucketPrimary_eq_some_iff (ordered_weight ordered w)).mp primary
    have hx : x ∈ before ++ after := (mem_with.mp first.1).resolve_left fun same => other (by rw [same])
    refine bucketPrimary_kept (ordered_weight ordered w) ordered first.1 primary (mem_with.mpr (.inr hx)) rfl
      (Nat.le_refl _) fun z hz _ => .inl ?_
    rcases mem_with.mp hz with rfl | hz
    · exact ⟨⟨u, w⟩, mem_with.mpr (.inl rfl), rfl, falls⟩
    · exact ⟨z, mem_with.mpr (.inr hz), rfl, Nat.le_refl _⟩
  · subst hold
    rw [bucketBackup_own ordered w primary]
    exact (bucketPrimary_raised ordered (.inl rfl)).symm

end Sys2Proof.Machine
end

section
/-! The stored words of the map (R133, R180). -/

namespace Sys2Proof.Machine

/-! ### The fields and the set bits of a word -/

theorem foldl_count (p : Nat → Bool) (places : List Nat) (n : Nat) :
    places.foldl (fun n i => if p i then n + 1 else n) n = n + places.countP p := by
  induction places generalizing n with
  | nil => rfl
  | cons i places ih =>
    rw [List.foldl_cons, ih, List.countP_cons]
    split_ifs <;> omega

theorem setBits_eq (w : MapWord) : setBits w = bitsSet w := by
  rw [setBits, foldl_count, Nat.zero_add, bitsSet]

/-- How many of the sixteen field bits of a word are set. -/
def fieldBits (fields : BitVec 16) : Nat := (List.range 16).countP fun i => fields.getLsbD i

theorem bitsSet_append (fields : BitVec 16) (parity : BitVec 1) :
    bitsSet (fields ++ parity) = parity.toNat + fieldBits fields := by
  have low : (fields ++ parity).getLsbD 0 = parity.getLsbD 0 := by
    rw [BitVec.getLsbD_append, if_pos Nat.zero_lt_one]
  have high : (List.range 16).countP ((fun i => (fields ++ parity).getLsbD i) ∘ Nat.succ) = fieldBits fields := by
    refine List.countP_congr fun i _ => ?_
    rw [Function.comp_apply, BitVec.getLsbD_append, if_neg (by omega), Nat.succ_sub_one]
  have single : ∀ p : BitVec 1, (if p.getLsbD 0 = true then 1 else 0) = p.toNat := by decide
  rw [bitsSet, List.range_succ_eq_map, List.countP_cons, List.countP_map, high, low, single, Nat.add_comm]

section Fields
variable (primary backup : BitVec 8) (parity : BitVec 1)

theorem extract_primary : (primary ++ backup ++ parity).extractLsb' 9 8 = primary := by
  refine BitVec.eq_of_getLsbD_eq fun i small => ?_
  rw [BitVec.getLsbD_extractLsb', decide_eq_true small, Bool.true_and, BitVec.getLsbD_append, if_neg (by omega),
    BitVec.getLsbD_append, if_neg (by omega)]
  congr 1
  omega

theorem extract_backup : (primary ++ backup ++ parity).extractLsb' 1 8 = backup := by
  refine BitVec.eq_of_getLsbD_eq fun i small => ?_
  rw [BitVec.getLsbD_extractLsb', decide_eq_true small, Bool.true_and, BitVec.getLsbD_append, if_neg (by omega),
    BitVec.getLsbD_append, if_pos (by omega)]
  congr 1
  omega

end Fields

/-- A word is its two fields and its parity bit. -/
theorem word_split (w : MapWord) : w.extractLsb' 9 8 ++ w.extractLsb' 1 8 ++ w.extractLsb' 0 1 = w := by
  refine BitVec.eq_of_getLsbD_eq fun i small => ?_
  rw [BitVec.getLsbD_append, BitVec.getLsbD_append, BitVec.getLsbD_extractLsb', BitVec.getLsbD_extractLsb',
    BitVec.getLsbD_extractLsb']
  split_ifs with zero inside
  · rw [decide_eq_true zero, Bool.true_and, Nat.zero_add]
  · rw [decide_eq_true inside, Bool.true_and]
    congr 1
    omega
  · rw [decide_eq_true (show i - 1 - 8 < 8 by omega), Bool.true_and]
    congr 1
    omega

/-- Two words with the same fields, and both of odd parity, are the same. -/
theorem word_unique {w w' : MapWord} (primary : w.extractLsb' 9 8 = w'.extractLsb' 9 8)
    (backup : w.extractLsb' 1 8 = w'.extractLsb' 1 8) (odd : bitsSet w % 2 = 1) (odd' : bitsSet w' % 2 = 1) : w = w' := by
  have count := bitsSet_append (w.extractLsb' 9 8 ++ w.extractLsb' 1 8) (w.extractLsb' 0 1)
  have count' := bitsSet_append (w'.extractLsb' 9 8 ++ w'.extractLsb' 1 8) (w'.extractLsb' 0 1)
  rw [word_split] at count count'
  rw [primary, backup] at count
  have low := (w.extractLsb' 0 1).isLt
  have low' := (w'.extractLsb' 0 1).isLt
  have parity : w.extractLsb' 0 1 = w'.extractLsb' 0 1 := BitVec.eq_of_toNat_eq (by omega)
  rw [← word_split w, ← word_split w', primary, backup, parity]

/-! ### The fields of an entry -/

theorem idField_bits (choice : Option UplinkId) :
    (idField choice).getLsbD 7 = choice.isSome ∧ (idField choice).extractLsb' 0 7 = idBits choice := by
  have named : ∀ u : UplinkId, (BitVec.ofNat 8 (128 + u.val)).getLsbD 7 = true ∧
      (BitVec.ofNat 8 (128 + u.val)).extractLsb' 0 7 = BitVec.ofNat 7 u.val := by decide
  cases choice with
  | none => exact ⟨rfl, rfl⟩
  | some u => exact named u

theorem readField_idField (choice : Option UplinkId) : readField (idField choice) = some choice := by
  have named : ∀ u : UplinkId, readField (BitVec.ofNat 8 (128 + u.val)) = some (some u) := by decide
  cases choice with
  | none => rfl
  | some u => exact named u

theorem idField_of_readField {field : BitVec 8} {choice : Option UplinkId} (read : readField field = some choice) :
    field = idField choice := by
  unfold readField at read
  split_ifs at read with present clear
  · obtain rfl := Option.some.inj read
    have top := BitVec.msb_eq_true_iff_two_mul_ge.mp (show field.msb = true from present)
    have small := field.isLt
    refine BitVec.eq_of_toNat_eq ?_
    rw [idField, BitVec.toNat_ofNat]
    show field.toNat = (128 + field.toNat % 128) % 256
    omega
  · obtain rfl := Option.some.inj read
    exact clear

theorem idBits_injective {u v : UplinkId} (same : idBits (some u) = idBits (some v)) : u = v := by
  have values := congrArg BitVec.toNat same
  have left := u.isLt
  have right := v.isLt
  rw [idBits, idBits, BitVec.toNat_ofNat, BitVec.toNat_ofNat] at values
  exact Fin.ext (by omega)

/-- The fields as a word gives them. -/
theorem word_bits (w : MapWord) :
    w.getLsbD 16 = (w.extractLsb' 9 8).getLsbD 7 ∧ w.extractLsb' 9 7 = (w.extractLsb' 9 8).extractLsb' 0 7 ∧
    w.getLsbD 8 = (w.extractLsb' 1 8).getLsbD 7 ∧ w.extractLsb' 1 7 = (w.extractLsb' 1 8).extractLsb' 0 7 := by
  refine ⟨by simp, BitVec.eq_of_getLsbD_eq fun i small => ?_, by simp, BitVec.eq_of_getLsbD_eq fun i small => ?_⟩
  · simp [small, show i < 8 by omega]
  · simp [small, show i < 8 by omega]

/-! ### Writing and reading an entry -/

theorem mapWord_parity (primary backup : Option UplinkId) :
    ∃ parity : BitVec 1, mapWord primary backup = idField primary ++ idField backup ++ parity := by
  unfold mapWord
  split_ifs
  · exact ⟨_, rfl⟩
  · exact ⟨_, rfl⟩

theorem mapWord_fields (primary backup : Option UplinkId) :
    (mapWord primary backup).extractLsb' 9 8 = idField primary ∧
    (mapWord primary backup).extractLsb' 1 8 = idField backup := by
  obtain ⟨parity, word⟩ := mapWord_parity primary backup
  rw [word]
  exact ⟨extract_primary _ _ _, extract_backup _ _ _⟩

theorem mapWord_odd (primary backup : Option UplinkId) : bitsSet (mapWord primary backup) % 2 = 1 := by
  have clear := bitsSet_append (idField primary ++ idField backup) 0#1
  have set := bitsSet_append (idField primary ++ idField backup) 1#1
  have zero : (0#1).toNat = 0 := rfl
  have one : (1#1).toNat = 1 := rfl
  unfold mapWord
  rw [setBits_eq]
  split_ifs with even
  · omega
  · omega

/-- A word reads as an entry exactly where its parity is odd, its fields are the entry's, and the entry has the shape of
one. -/
theorem readWord_eq_some_iff {w : MapWord} {primary backup : Option UplinkId} :
    readWord w = some (primary, backup) ↔
      bitsSet w % 2 = 1 ∧ w.extractLsb' 9 8 = idField primary ∧ w.extractLsb' 1 8 = idField backup ∧
        EntryShape primary backup := by
  constructor
  · intro read
    unfold readWord at read
    rw [setBits_eq] at read
    split_ifs at read with even
    refine ⟨by omega, ?_⟩
    split at read
    next p b => 
      obtain ⟨rfl, rfl⟩ := Prod.mk.inj (Option.some.inj read)
      exact ⟨idField_of_readField p, idField_of_readField b, nofun⟩
    next u p b =>
      obtain ⟨rfl, rfl⟩ := Prod.mk.inj (Option.some.inj read)
      exact ⟨idField_of_readField p, idField_of_readField b, nofun⟩
    next u v p b =>
      split_ifs at read with same
      obtain ⟨rfl, rfl⟩ := Prod.mk.inj (Option.some.inj read)
      refine ⟨idField_of_readField p, idField_of_readField b, fun x named => ⟨nofun, fun equal => same ?_⟩⟩
      exact (Option.some.inj equal).trans (Option.some.inj named).symm
    all_goals cases read
  · rintro ⟨odd, p, b, shape⟩
    unfold readWord
    rw [setBits_eq, if_neg (by omega), p, b, readField_idField, readField_idField]
    cases primary with
    | none =>
      cases backup with
      | none => rfl
      | some v => exact absurd rfl (shape v rfl).1
    | some u =>
      cases backup with
      | none => rfl
      | some v =>
        have apart : u ≠ v := fun same => (shape v rfl).2 (congrArg some same)
        exact if_neg apart

theorem readWord_mapWord {primary backup : Option UplinkId} (shape : EntryShape primary backup) :
    readWord (mapWord primary backup) = some (primary, backup) := by
  obtain ⟨p, b⟩ := mapWord_fields primary backup
  exact readWord_eq_some_iff.mpr ⟨mapWord_odd primary backup, p, b, shape⟩

theorem eq_mapWord_of_readWord {w : MapWord} {primary backup : Option UplinkId}
    (read : readWord w = some (primary, backup)) : EntryShape primary backup ∧ w = mapWord primary backup := by
  obtain ⟨odd, p, b, shape⟩ := readWord_eq_some_iff.mp read
  obtain ⟨p', b'⟩ := mapWord_fields primary backup
  exact ⟨shape, word_unique (p.trans p'.symm) (b.trans b'.symm) odd (mapWord_odd primary backup)⟩

/-- A word fails its check where it cannot be read. -/
theorem readWord_eq_none {w : MapWord}
    (not : ∀ primary backup, bitsSet w % 2 = 1 → w.getLsbD 16 = primary.isSome → w.extractLsb' 9 7 = idBits primary →
      w.getLsbD 8 = backup.isSome → w.extractLsb' 1 7 = idBits backup → ¬ EntryShape primary backup) :
    readWord w = none := by
  refine Option.eq_none_iff_forall_ne_some.mpr fun entry read => ?_
  obtain ⟨odd, p, b, shape⟩ := readWord_eq_some_iff.mp (show readWord w = some (entry.1, entry.2) from read)
  obtain ⟨presence, ids, presence', ids'⟩ := word_bits w
  obtain ⟨some, named⟩ := idField_bits entry.1
  obtain ⟨some', named'⟩ := idField_bits entry.2
  rw [p] at presence ids
  rw [b] at presence' ids'
  exact not entry.1 entry.2 odd (presence.trans some) (ids.trans named) (presence'.trans some') (ids'.trans named') shape

/-- What is written of an entry, bit by bit (R133, R180). -/
theorem mapWord_written (primary backup : Option UplinkId) :
    bitsSet (mapWord primary backup) % 2 = 1 ∧
    (mapWord primary backup).getLsbD 16 = primary.isSome ∧
    (mapWord primary backup).extractLsb' 9 7 = idBits primary ∧
    (mapWord primary backup).getLsbD 8 = backup.isSome ∧
    (mapWord primary backup).extractLsb' 1 7 = idBits backup ∧
    (EntryShape primary backup → readWord (mapWord primary backup) = some (primary, backup)) := by
  obtain ⟨presence, ids, presence', ids'⟩ := word_bits (mapWord primary backup)
  obtain ⟨p, b⟩ := mapWord_fields primary backup
  rw [p] at presence ids
  rw [b] at presence' ids'
  exact ⟨mapWord_odd primary backup, presence.trans (idField_bits primary).1, ids.trans (idField_bits primary).2,
    presence'.trans (idField_bits backup).1, ids'.trans (idField_bits backup).2, readWord_mapWord⟩

/-- Which words fail their check, and what the others store (R133, R155, R180). -/
theorem readWord_checked (w : MapWord) :
    (bitsSet w % 2 = 0 → readWord w = none) ∧
    (w.getLsbD 16 = false → w.extractLsb' 9 7 ≠ 0 → readWord w = none) ∧
    (w.getLsbD 8 = false → w.extractLsb' 1 7 ≠ 0 → readWord w = none) ∧
    (w.getLsbD 16 = false → w.getLsbD 8 = true → readWord w = none) ∧
    (w.getLsbD 16 = true → w.getLsbD 8 = true → w.extractLsb' 9 7 = w.extractLsb' 1 7 → readWord w = none) ∧
    (∀ primary backup, readWord w = some (primary, backup) →
      EntryShape primary backup ∧ w = mapWord primary backup) := by
  refine ⟨fun even => ?_, fun absent ids => ?_, fun absent ids => ?_, fun absent present => ?_,
    fun present present' same => ?_, fun primary backup => eq_mapWord_of_readWord⟩
  · exact readWord_eq_none fun p b odd => by omega
  · refine readWord_eq_none fun p b _ presence named _ _ => ?_
    rw [absent] at presence
    obtain rfl := Option.isSome_eq_false_iff.mp presence.symm |> Option.isNone_iff_eq_none.mp
    exact absurd named ids
  · refine readWord_eq_none fun p b _ _ _ presence named => ?_
    rw [absent] at presence
    obtain rfl := Option.isSome_eq_false_iff.mp presence.symm |> Option.isNone_iff_eq_none.mp
    exact absurd named ids
  · refine readWord_eq_none fun p b _ presence _ presence' _ shape => ?_
    rw [absent] at presence
    rw [present] at presence'
    obtain rfl := Option.isSome_eq_false_iff.mp presence.symm |> Option.isNone_iff_eq_none.mp
    obtain ⟨v, rfl⟩ := Option.isSome_iff_exists.mp presence'.symm
    exact (shape v rfl).1 rfl
  · refine readWord_eq_none fun p b _ presence named presence' named' shape => ?_
    rw [present] at presence
    rw [present'] at presence'
    obtain ⟨u, rfl⟩ := Option.isSome_iff_exists.mp presence.symm
    obtain ⟨v, rfl⟩ := Option.isSome_iff_exists.mp presence'.symm
    have equal := idBits_injective (named.symm.trans (same.trans named'))
    exact (shape v rfl).2 (congrArg some equal)

end Sys2Proof.Machine
end

section
/-! The entry read and the reply of the lookup port (R151 to R157). -/

namespace Sys2Proof.Machine

/-! ### A parity failure -/

/-- The state in which a parity failure brings its search (R155). -/
def flagUnlessFault (g : Group) (s : State) : State := if s.engine.fault[g] then s else markDirty g s

theorem flagUnlessFault_eq (g : Group) (s : State) :
    flagUnlessFault g s = { s with table := { s.table with dirty := (flagUnlessFault g s).table.dirty } } := by
  unfold flagUnlessFault
  split_ifs <;> rfl

theorem flagUnlessFault_dirty (g h : Group) (s : State) :
    (flagUnlessFault g s).table.dirty[h] = true ↔ s.table.dirty[h] = true ∨ (h = g ∧ s.engine.fault[g] = false) := by
  unfold flagUnlessFault
  cases fault : s.engine.fault[g] with
  | true => simp
  | false =>
    rcases eq_or_ne h g with rfl | apart
    · simp [markDirty]
    · have values : (g : Nat) ≠ h := fun same => apart (Fin.ext same.symm)
      simp [markDirty, apart, values]

theorem parityFailed_def (g : Group) (s : State) :
    parityFailed g s =
      search (raiseEvents [raiseAbout .mapParity g.val] (bump .parityFailures (flagUnlessFault g s))) := rfl

theorem parityFailed_frame (g : Group) (s : State) :
    parityFailed g s = { s with
      events := (parityFailed g s).events, counters := (parityFailed g s).counters
      engine := (parityFailed g s).engine
      table := { s.table with dirty := (parityFailed g s).table.dirty } } := by
  rw [parityFailed_def, search_eq, raiseEvents_single, flagUnlessFault_eq]
  rfl

theorem parityFailed_follows (g : Group) (s : State) :
    SearchFollows s.engine (fun h => s.table.dirty[h] = true ∨ (h = g ∧ s.engine.fault[g] = false)) s
      (parityFailed g s) := by
  rw [parityFailed_def, raiseEvents_single]
  refine search_searchFollows ?_ (fun h => flagUnlessFault_dirty g h s) ?_
  · rw [flagUnlessFault_eq]
    rfl
  · exact (counterOf_bump_other (by decide) _).trans (by rw [flagUnlessFault_eq]; rfl)

theorem parityFailed_counts (g : Group) (s : State) :
    counterOf .parityFailures (parityFailed g s) = saturatingHalf (counterOf .parityFailures s) ∧
    CountersBut [.parityFailures, .recomputes] s (parityFailed g s) := by
  have flagged : ∀ c, counterOf c (flagUnlessFault g s) = counterOf c s := fun c => by rw [flagUnlessFault_eq]; rfl
  rw [parityFailed_def, raiseEvents_single]
  refine ⟨?_, fun c other => ?_⟩
  · rw [search_countersBut _ _ (by decide), ← flagged]
    exact counterOf_bump_same _ _
  · simp only [List.mem_cons, List.not_mem_nil, or_false, not_or] at other
    rw [search_countersBut _ c (by simpa using other.2), ← flagged]
    exact counterOf_bump_other other.1 _

theorem parityFailed_raises (g : Group) (s : State) :
    Raises [raiseAbout .mapParity g.val] s (parityFailed g s) := by
  have events : (parityFailed g s).events =
      (raiseEvents [raiseAbout .mapParity g.val] (bump .parityFailures (flagUnlessFault g s))).events := by
    rw [parityFailed_def, search_eq]
  have raised := raiseEvents_raises [raiseAbout .mapParity g.val] (bump .parityFailures (flagUnlessFault g s))
  unfold Raises at raised ⊢
  rw [events]
  rwa [show (bump .parityFailures (flagUnlessFault g s)).events = s.events by rw [flagUnlessFault_eq]; rfl] at raised

/-! ### The entry read -/

theorem servesLookups_eq_true {st : StationState} : servesLookups st = true ↔ st = .operating ∨ st = .muted := by
  cases st <;> decide

section Read
variable {r : Request} {upset : MapWord} (s : State)

theorem entryRead_notReady
    (out : (s.control.station ≠ .operating ∧ s.control.station ≠ .muted) ∨ s.map.generation[r.group] = 0) :
    entryRead r upset s = holdService .notReady s := by
  refine if_pos (out.imp_left fun quiet => ?_)
  rw [← Bool.not_eq_true, servesLookups_eq_true]
  exact fun serves => serves.elim quiet.1 quiet.2

theorem entryRead_serving (serves : s.control.station = .operating ∨ s.control.station = .muted)
    (flipped : s.map.generation[r.group] ≠ 0) :
    entryRead r upset s =
      match readWord (readStored r upset s) with
      | some (primary, backup) => holdService (.entry primary backup) (applyUpset r upset s)
      | none => parityFailed r.group (holdService .parityFailure (applyUpset r upset s)) := by
  refine if_neg fun out => out.elim (fun quiet => ?_) flipped
  rw [servesLookups_eq_true.mpr serves] at quiet
  cases quiet

end Read

theorem reducedBucket_unique {code : BitVec 2} {b b' : Bucket} (reduced : b'.val = b.val % (256 * 2 ^ code.toNat)) :
    b' = reducedBucket code b := Fin.ext reduced

/-- The map after the word of an entry read was found with its changed bits (R133). -/
theorem applyUpset_words (r : Request) (upset : MapWord) {s : State} (ok : MapOk s) :
    storedWord r.group s.map.active[r.group] (reducedBucket s.params.bucketCode r.bucket) (applyUpset r upset s).map =
      readStored r upset s ∧
    ∀ (g : Group) (k : Bool) (b : Bucket),
      ¬ (g = r.group ∧ k = s.map.active[r.group] ∧ b = reducedBucket s.params.bucketCode r.bucket) →
      storedWord g k b (applyUpset r upset s).map = storedWord g k b s.map :=
  ⟨storedWord_storeWord_same _ _ _ _ ok, fun _ _ _ other => storedWord_storeWord_other _ ok other⟩

section Moved
variable {s u : State} {l : LookupPort} (r : Request) (upset : MapWord)

theorem entryRead_map (moved : u = { s with lookup := l })
    (serves : s.control.station = .operating ∨ s.control.station = .muted) (flipped : s.map.generation[r.group] ≠ 0) :
    (entryRead r upset u).map = (applyUpset r upset s).map := by
  subst moved
  rw [entryRead_serving { s with lookup := l } serves flipped]
  split
  · rfl
  · rw [parityFailed_frame]
    rfl

theorem entryRead_entry (moved : u = { s with lookup := l })
    (serves : s.control.station = .operating ∨ s.control.station = .muted) (flipped : s.map.generation[r.group] ≠ 0)
    {e : Option UplinkId × Option UplinkId} (read : readWord (readStored r upset s) = some e) :
    entryRead r upset u =
      { s with lookup := { l with service := some (.entry e.1 e.2) }, map := (applyUpset r upset s).map } := by
  subst moved
  rw [entryRead_serving { s with lookup := l } serves flipped, show readWord (readStored r upset { s with lookup := l }) = some e from read]
  rfl

theorem entryRead_failure (moved : u = { s with lookup := l })
    (serves : s.control.station = .operating ∨ s.control.station = .muted) (flipped : s.map.generation[r.group] ≠ 0)
    (read : readWord (readStored r upset s) = none) :
    entryRead r upset u = parityFailed r.group
      { s with lookup := { l with service := some .parityFailure }, map := (applyUpset r upset s).map } := by
  subst moved
  rw [entryRead_serving { s with lookup := l } serves flipped, show readWord (readStored r upset { s with lookup := l }) = none from read]
  rfl

/-- An entry read writes of the port the service alone. -/
theorem entryRead_lookup : (entryRead r upset u).lookup =
    { u.lookup with service := (entryRead r upset u).lookup.service } := by
  unfold entryRead
  split_ifs
  · rfl
  · split
    · rfl
    · rw [parityFailed_frame]
      rfl

/-- The entry read of a request, from a state in which the port alone has moved. -/
theorem entryRead_reads (moved : u = { s with lookup := l }) (ok : MapOk s) :
    ReadsEntry r upset s (entryRead r upset u) := by
  refine ⟨fun out => ?_, fun serves flipped b w reduced word => ?_⟩
  · subst moved
    rw [entryRead_notReady { s with lookup := l } out]
    exact ⟨rfl, rfl⟩
  obtain rfl := reducedBucket_unique reduced
  obtain rfl : w = readStored r upset s := word
  obtain ⟨same, others⟩ := applyUpset_words r upset ok
  rw [entryRead_map r upset moved serves flipped]
  refine ⟨same, rfl, rfl, others, fun e read => ?_, fun read => ?_⟩
  · rw [entryRead_entry r upset moved serves flipped read]
    exact ⟨rfl, rfl⟩
  · rw [entryRead_failure r upset moved serves flipped read]
    refine ⟨?_, raises_congr (parityFailed_raises _ _) rfl, (parityFailed_counts _ _).1,
      (parityFailed_counts _ _).2, ?_, ?_⟩
    · rw [parityFailed_frame]
    · exact parityFailed_follows r.group
        { s with lookup := { l with service := some .parityFailure }, map := (applyUpset r upset s).map }
    · rw [parityFailed_frame]

end Moved

end Sys2Proof.Machine
end

section
/-! A request taken and a reply formed (R151 to R157). -/

namespace Sys2Proof.Machine

/-! ### A request -/

theorem lookupRequest_full {g : Group} {b : Bucket} {tag : Tag} {upset : MapWord} {s : State}
    (full : s.lookup.ready = false) : exec (.lookupRequest g b tag upset) s = .next s := by
  rw [exec, execLookupRequest, if_neg (by rw [full]; exact Bool.false_ne_true)]

theorem lookupRequest_waits {g : Group} {b : Bucket} {tag : Tag} {upset : MapWord} {s : State}
    (ready : s.lookup.ready = true) (queued : s.lookup.fifo ≠ []) :
    exec (.lookupRequest g b tag upset) s = .next { s with
      lookup := { s.lookup with
        fifo := s.lookup.fifo ++ [{ group := g, bucket := b, tag := tag }]
        ready := decide (s.lookup.fifo.length + 1 < 8) } } := by
  rw [exec, execLookupRequest, if_pos ready, if_neg (by simpa using queued), setFifo, List.length_append]
  rfl

theorem lookupRequest_read {g : Group} {b : Bucket} {tag : Tag} {upset : MapWord} {s : State}
    (ready : s.lookup.ready = true) (empty : s.lookup.fifo = []) :
    exec (.lookupRequest g b tag upset) s =
      .next (entryRead { group := g, bucket := b, tag := tag } upset
        (setFifo [{ group := g, bucket := b, tag := tag }] s)) := by
  rw [exec, execLookupRequest, if_pos ready, if_pos (by rw [empty]; rfl)]

theorem ready_of_short {s : State} (ok : LookupOk s) (short : s.lookup.fifo.length < 8) : s.lookup.ready = true := by
  obtain ⟨-, ready, -⟩ := ok
  rw [ready]
  exact decide_eq_true short

/-- Settles O51. -/
theorem requestIsTaken : Obligations.RequestIsTaken := by
  refine ⟨mapWord_written, readWord_checked, fun g b tag upset s ok mapOk =>
    ⟨lookupRequest_full, lookupRequest_waits, fun empty => ?_⟩⟩
  have ready := ready_of_short ok (by rw [empty]; exact Nat.zero_lt_succ 7)
  refine ⟨_, lookupRequest_read ready empty, ?_, entryRead_reads _ upset rfl mapOk⟩
  exact entryRead_lookup _ upset

/-! ### A reply -/

/-- The named uplink of a candidate of the group. -/
theorem usableChoice_eq_some {g : Group} {rows : Vector (Vector Candidate 8) 16} {choice : Option UplinkId}
    {u : UplinkId} :
    usableChoice g rows choice = some u ↔ choice = some u ∧ isCandidateOf g (candidateAt rows u) = true :=
  Option.filter_eq_some_iff

theorem usableChoice_eq_none {g : Group} {rows : Vector (Vector Candidate 8) 16} {choice : Option UplinkId}
    (without : ∀ x, choice = some x → isCandidateOf g (candidateAt rows x) = false) :
    usableChoice g rows choice = none := by
  refine Option.eq_none_iff_forall_ne_some.mpr fun u usable => ?_
  obtain ⟨chosen, candidate⟩ := usableChoice_eq_some.mp usable
  rw [without u chosen] at candidate
  cases candidate

section Last
variable {g : Group} {rows : Vector (Vector Candidate 8) 16}

theorem lastResort_candidate {u : UplinkId} (last : lastResort g rows = some u) :
    isCandidateOf g (candidateAt rows u) = true := List.find?_some (p := fun u => isCandidateOf g (candidateAt rows u)) last

theorem lastResort_lowest {u : UplinkId} (candidate : isCandidateOf g (candidateAt rows u) = true)
    (lowest : ∀ x : UplinkId, x < u → isCandidateOf g (candidateAt rows x) = false) : lastResort g rows = some u := by
  refine List.find?_eq_some_iff_getElem.mpr ⟨candidate, u.val, by simp, by simp, fun j below => ?_⟩
  rw [List.getElem_finRange, lowest _ below]
  rfl

theorem lastResort_eq_none (without : ∀ u : UplinkId, isCandidateOf g (candidateAt rows u) = false) :
    lastResort g rows = none :=
  List.find?_eq_none.mpr fun u _ => by rw [without u]; exact Bool.false_ne_true

theorem resortReply_candidate {u : UplinkId} (named : (resortReply g rows).2 = some u) :
    isCandidateOf g (candidateAt rows u) = true := by
  unfold resortReply at named
  split at named
  next v last =>
    obtain rfl := Option.some.inj named
    exact lastResort_candidate last
  next => cases named

/-- Whatever a reply names is a candidate of the group (R156). -/
theorem formReply_candidate {v : Service} {u : UplinkId} (named : (formReply g v rows).2 = some u) :
    isCandidateOf g (candidateAt rows u) = true := by
  cases v with
  | notReady => cases named
  | parityFailure => exact resortReply_candidate named
  | entry primary backup =>
    rw [formReply] at named
    split at named
    next x usable =>
      obtain rfl := Option.some.inj named
      exact (usableChoice_eq_some.mp usable).2
    next x _ usable =>
      obtain rfl := Option.some.inj named
      exact (usableChoice_eq_some.mp usable).2
    next => exact resortReply_candidate named

theorem formReply_primary {p : UplinkId} {q : Option UplinkId} (candidate : isCandidateOf g (candidateAt rows p) = true) :
    formReply g (.entry (some p) q) rows = (.primary, some p) := by
  rw [formReply, usableChoice_eq_some.mpr ⟨rfl, candidate⟩]

theorem formReply_backup {p : Option UplinkId} {q : UplinkId}
    (without : ∀ x, p = some x → isCandidateOf g (candidateAt rows x) = false)
    (candidate : isCandidateOf g (candidateAt rows q) = true) :
    formReply g (.entry p (some q)) rows = (.backup, some q) := by
  rw [formReply, usableChoice_eq_none without, usableChoice_eq_some.mpr ⟨rfl, candidate⟩]

/-- A parity failure, or an entry with no candidate, makes the last resort the reply (R156). -/
theorem formReply_resort {v : Service}
    (without : v = .parityFailure ∨ ∃ p q, v = .entry p q ∧
      (∀ x, p = some x → isCandidateOf g (candidateAt rows x) = false) ∧
      (∀ x, q = some x → isCandidateOf g (candidateAt rows x) = false)) :
    formReply g v rows = resortReply g rows := by
  obtain rfl | ⟨p, q, rfl, noPrimary, noBackup⟩ := without
  · rfl
  · rw [formReply, usableChoice_eq_none noPrimary, usableChoice_eq_none noBackup]

end Last

/-- What REPLY_FORMATION does: the delivery, and the entry read of the next head. -/
def replied (r : Request) (rest : List Request) (v : Service) (upset : MapWord) (s : State) : State :=
  match rest with
  | [] => deliver r [] v s
  | next :: rest => entryRead next upset (deliver r (next :: rest) v s)

theorem exec_replyFormation {r : Request} {rest : List Request} {v : Service} {upset : MapWord} {s : State}
    (fifo : s.lookup.fifo = r :: rest) (service : s.lookup.service = some v) :
    exec (.replyFormation upset) s = .next (replied r rest v upset s) := by
  rw [exec, execReplyFormation, fifo, service]
  cases rest <;> rfl

/-- The port after a reply: the delivery's, with the service of the next entry read. -/
theorem replied_lookup (r : Request) (rest : List Request) (v : Service) (upset : MapWord) (s : State) :
    (replied r rest v upset s).lookup =
      { (deliver r rest v s).lookup with service := (replied r rest v upset s).lookup.service } := by
  cases rest with
  | nil => rfl
  | cons next rest => exact entryRead_lookup next upset

/-- The outputs at a reply that names an uplink (R157). -/
theorem replyPins_named {before : ReplyPins} {tag : Tag} {reply : Via × Option UplinkId} {via : Via} {u : UplinkId}
    (names : reply = (via, some u)) :
    (replyPins before tag reply).via = via ∧ (replyPins before tag reply).uplink = BitVec.ofNat 7 u.val ∧
    (replyPins before tag reply).named = true := by
  subst names
  exact ⟨rfl, rfl, rfl⟩

theorem replyPins_unnamed {before : ReplyPins} {tag : Tag} {reply : Via × Option UplinkId} {via : Via}
    (names : reply = (via, none)) :
    (replyPins before tag reply).via = via ∧ (replyPins before tag reply).named = false := by
  subst names
  exact ⟨rfl, rfl⟩

/-- Whether the outputs name an uplink, and which. -/
theorem replyPins_uplink (before : ReplyPins) (tag : Tag) (reply : Via × Option UplinkId) :
    ((replyPins before tag reply).named = true →
      ∃ u, reply.2 = some u ∧ (replyPins before tag reply).uplink = BitVec.ofNat 7 u.val) ∧
    ((replyPins before tag reply).named = false → (replyPins before tag reply).uplink = 0) := by
  obtain ⟨via, named⟩ := reply
  cases named with
  | none => exact ⟨nofun, fun _ => rfl⟩
  | some u => exact ⟨fun _ => ⟨u, rfl, rfl⟩, nofun⟩

/-- Settles O52. -/
theorem replyNamesOnlyCandidates : Obligations.ReplyNamesOnlyCandidates := by
  refine ⟨rfl, fun r rest v upset s fifo service ok mapOk => ?_⟩
  have short : rest.length < 8 := by
    have bound := ok.1
    rw [fifo] at bound
    exact bound
  obtain ⟨t, ht⟩ : ∃ t, t = replied r rest v upset s := ⟨_, rfl⟩
  have port := replied_lookup r rest v upset s
  rw [← ht] at port
  have reply : t.lookup.reply = replyPins s.lookup.reply r.tag (formReply r.group v s.table.rows) := by rw [port]; rfl
  obtain ⟨names, unnamed⟩ := replyPins_uplink s.lookup.reply r.tag (formReply r.group v s.table.rows)
  refine ⟨t, ht ▸ exec_replyFormation fifo service, by rw [port]; rfl, ?_, ?_⟩
  · rw [port]
    exact decide_eq_true short
  rw [reply]
  refine ⟨rfl, rfl, fun named => ?_, unnamed, ?_, ?_, ?_, fun without => ⟨fun u candidate lowest => ?_, fun no => ?_⟩,
    ?_, ?_⟩
  · obtain ⟨u, named, uplink⟩ := names named
    exact ⟨u, uplink, formReply_candidate named⟩
  · rintro rfl
    exact replyPins_unnamed rfl
  · rintro p q rfl candidate
    exact replyPins_named (formReply_primary candidate)
  · rintro p q rfl without candidate
    exact replyPins_named (formReply_backup without candidate)
  · refine replyPins_named ((formReply_resort without).trans ?_)
    rw [resortReply, lastResort_lowest candidate lowest]
  · refine replyPins_unnamed ((formReply_resort without).trans ?_)
    rw [resortReply, lastResort_eq_none no]
  · rintro rfl
    rw [ht]
    exact ⟨rfl, rfl⟩
  · intro next head
    cases rest with
    | nil => cases head
    | cons first rest =>
      obtain rfl := Option.some.inj head
      rw [ht]
      exact entryRead_reads first upset rfl mapOk

end Sys2Proof.Machine
end
